-- ==== Sys2Proof/Word.lean ====
section
/-! DEFINITION. The word types of the core (spec/00_scope.md R8): every value is an unsigned number of a stated
width. They are abbreviations, so the lemmas about bit vectors apply to them as they stand. -/

namespace Sys2Proof

/-- A 4-bit half of a byte: a register index or a row count (R8, R11). -/
abbrev Nibble := BitVec 4

/-- A byte: a V register, a timer, a memory cell, an immediate `kk` (R8). -/
abbrev Byte := BitVec 8

/-- A 12-bit address: the field `nnn` (R8, R11). -/
abbrev Addr := BitVec 12

/-- A 16-bit word: I, PC, a stack entry, an instruction word (R8). -/
abbrev Word := BitVec 16

end Sys2Proof
end

