-- ==== Sys2Proof/Syntax.lean ====
section
/-! DEFINITION. The instruction set: one constructor for each of the 35 rows of spec/opcode_table.json
(spec/30_encoding.md R49), with the fields of R45 and R46. -/

namespace Sys2Proof

/-- The instructions of R49, in the table's order. `x`, `y` are register indices, `kk` an immediate byte, `nnn` a
12-bit address, `n` a row count. -/
inductive Instr where
  /-- 0nnn, SYS nnn (R63); 00E0 and 00EE are CLS and RET (R50). -/
  | sys (nnn : Addr)
  /-- 00E0, CLS (R86). -/
  | cls
  /-- 00EE, RET (R62). -/
  | ret
  /-- 1nnn, JP nnn (R59). -/
  | jp (nnn : Addr)
  /-- 2nnn, CALL nnn (R61). -/
  | call (nnn : Addr)
  /-- 3xkk, SE Vx, kk (R64). -/
  | seByte (x : Nibble) (kk : Byte)
  /-- 4xkk, SNE Vx, kk (R65). -/
  | sneByte (x : Nibble) (kk : Byte)
  /-- 5xy0, SE Vx, Vy (R66). -/
  | seReg (x y : Nibble)
  /-- 6xkk, LD Vx, kk (R68). -/
  | ldByte (x : Nibble) (kk : Byte)
  /-- 7xkk, ADD Vx, kk (R69). -/
  | addByte (x : Nibble) (kk : Byte)
  /-- 8xy0, LD Vx, Vy (R72). -/
  | ldReg (x y : Nibble)
  /-- 8xy1, OR Vx, Vy (R73). -/
  | orReg (x y : Nibble)
  /-- 8xy2, AND Vx, Vy (R74). -/
  | andReg (x y : Nibble)
  /-- 8xy3, XOR Vx, Vy (R75). -/
  | xorReg (x y : Nibble)
  /-- 8xy4, ADD Vx, Vy (R76). -/
  | addReg (x y : Nibble)
  /-- 8xy5, SUB Vx, Vy (R77). -/
  | subReg (x y : Nibble)
  /-- 8xy6, SHR Vx, Vy (R78). -/
  | shr (x y : Nibble)
  /-- 8xy7, SUBN Vx, Vy (R79). -/
  | subn (x y : Nibble)
  /-- 8xyE, SHL Vx, Vy (R80). -/
  | shl (x y : Nibble)
  /-- 9xy0, SNE Vx, Vy (R67). -/
  | sneReg (x y : Nibble)
  /-- Annn, LD I, nnn (R82). -/
  | ldI (nnn : Addr)
  /-- Bnnn, JP V0, nnn (R60). -/
  | jpV0 (nnn : Addr)
  /-- Cxkk, RND Vx, kk (R85). -/
  | rnd (x : Nibble) (kk : Byte)
  /-- Dxyn, DRW Vx, Vy, n (R87). -/
  | drw (x y n : Nibble)
  /-- Ex9E, SKP Vx (R89). -/
  | skp (x : Nibble)
  /-- ExA1, SKNP Vx (R90). -/
  | sknp (x : Nibble)
  /-- Fx07, LD Vx, DT (R93). -/
  | ldVxDT (x : Nibble)
  /-- Fx0A, LD Vx, K (R91). -/
  | ldVxK (x : Nibble)
  /-- Fx15, LD DT, Vx (R94). -/
  | ldDTVx (x : Nibble)
  /-- Fx18, LD ST, Vx (R95). -/
  | ldSTVx (x : Nibble)
  /-- Fx1E, ADD I, Vx (R83). -/
  | addI (x : Nibble)
  /-- Fx29, LD F, Vx (R84). -/
  | ldF (x : Nibble)
  /-- Fx33, LD B, Vx (R96). -/
  | ldB (x : Nibble)
  /-- Fx55, LD [I], Vx (R97). -/
  | stRegs (x : Nibble)
  /-- Fx65, LD Vx, [I] (R98). -/
  | ldRegs (x : Nibble)
deriving DecidableEq, Repr, Inhabited

end Sys2Proof
end

