-- ==== Sys2Proof/WellFormed.lean ====
section
/-! DEFINITION. Which instruction terms stand for a word of the ISA. Every field is a bit vector of its own width,
so a register index or an immediate is never out of range (spec/30_encoding.md R47); the only check is that SYS
does not name one of the two words CLS and RET take (R50). -/

namespace Sys2Proof

/-- The two values of `nnn` for which 0nnn is not SYS: 00E0 is CLS and 00EE is RET (R50). -/
def sysNamesAnother (nnn : Addr) : Bool := nnn == 0x0E0#12 || nnn == 0x0EE#12

/-- The instruction term has a word of its own. -/
def wellFormed : Instr → Bool
  | .sys nnn => !sysNamesAnother nnn
  | .cls | .ret | .jp _ | .call _ | .seByte _ _ | .sneByte _ _ | .seReg _ _ | .ldByte _ _ | .addByte _ _
  | .ldReg _ _ | .orReg _ _ | .andReg _ _ | .xorReg _ _ | .addReg _ _ | .subReg _ _ | .shr _ _ | .subn _ _
  | .shl _ _ | .sneReg _ _ | .ldI _ | .jpV0 _ | .rnd _ _ | .drw _ _ _ | .skp _ | .sknp _ | .ldVxDT _ | .ldVxK _
  | .ldDTVx _ | .ldSTVx _ | .addI _ | .ldF _ | .ldB _ | .stRegs _ | .ldRegs _ => true

end Sys2Proof
end

