-- ==== Sys2Proof/Decode.lean ====
section
/-! DEFINITION. Fields, decoder, encoder and the opcode map as data (spec/30_encoding.md R43 to R53). The decoder
dispatches on the four nibbles of the word (R45); the encoder and the mask/match table are written apart from it,
from the formats of R46 and the map of R49, so that the three can be held against each other. -/

namespace Sys2Proof

/-- `op`, bits 15:12 (R45). -/
def opField (w : Word) : Nibble := w.extractLsb' 12 4

/-- `x`, bits 11:8 (R45). -/
def xField (w : Word) : Nibble := w.extractLsb' 8 4

/-- `y`, bits 7:4 (R45). -/
def yField (w : Word) : Nibble := w.extractLsb' 4 4

/-- `n`, bits 3:0 (R45). -/
def nField (w : Word) : Nibble := w.extractLsb' 0 4

/-- `kk`, bits 7:0 (R45). -/
def kkField (w : Word) : Byte := w.extractLsb' 0 8

/-- `nnn`, bits 11:0 (R45). -/
def nnnField (w : Word) : Addr := w.extractLsb' 0 12

/-- What decoding answers (R52): one instruction with its fields, or `Unknown(W)`. -/
inductive Decoded where
  | instr (i : Instr)
  | unknown (w : Word)
deriving DecidableEq, Repr

/-- Family 0 (R48, R50): 00E0 and 00EE before SYS. -/
def decodeSystem (w : Word) : Decoded :=
  if nnnField w = 0x0E0#12 then .instr .cls
  else if nnnField w = 0x0EE#12 then .instr .ret
  else .instr (.sys (nnnField w))

/-- Family 8 (R48, R70): the low nibble selects one of nine operations. -/
def decodeAlu (w : Word) : Decoded :=
  match nField w with
  | 0x0#4 => .instr (.ldReg (xField w) (yField w))
  | 0x1#4 => .instr (.orReg (xField w) (yField w))
  | 0x2#4 => .instr (.andReg (xField w) (yField w))
  | 0x3#4 => .instr (.xorReg (xField w) (yField w))
  | 0x4#4 => .instr (.addReg (xField w) (yField w))
  | 0x5#4 => .instr (.subReg (xField w) (yField w))
  | 0x6#4 => .instr (.shr (xField w) (yField w))
  | 0x7#4 => .instr (.subn (xField w) (yField w))
  | 0xE#4 => .instr (.shl (xField w) (yField w))
  | _ => .unknown w

/-- Family E (R48): the low byte selects a key skip. -/
def decodeKeySkip (w : Word) : Decoded :=
  match kkField w with
  | 0x9E#8 => .instr (.skp (xField w))
  | 0xA1#8 => .instr (.sknp (xField w))
  | _ => .unknown w

/-- Family F (R48): the low byte selects one of nine operations. -/
def decodeMisc (w : Word) : Decoded :=
  match kkField w with
  | 0x07#8 => .instr (.ldVxDT (xField w))
  | 0x0A#8 => .instr (.ldVxK (xField w))
  | 0x15#8 => .instr (.ldDTVx (xField w))
  | 0x18#8 => .instr (.ldSTVx (xField w))
  | 0x1E#8 => .instr (.addI (xField w))
  | 0x29#8 => .instr (.ldF (xField w))
  | 0x33#8 => .instr (.ldB (xField w))
  | 0x55#8 => .instr (.stRegs (xField w))
  | 0x65#8 => .instr (.ldRegs (xField w))
  | _ => .unknown w

/-- Families 5 and 9 (R48, R51): the low nibble must be 0. -/
def decodeRegSkip (build : Nibble → Nibble → Instr) (w : Word) : Decoded :=
  if nField w = 0#4 then .instr (build (xField w) (yField w)) else .unknown w

/-- The decoder (R45, R48 to R52): total on every word, reading nothing but the word, strict in every fixed
nibble. -/
def decode (w : Word) : Decoded :=
  match opField w with
  | 0x0#4 => decodeSystem w
  | 0x1#4 => .instr (.jp (nnnField w))
  | 0x2#4 => .instr (.call (nnnField w))
  | 0x3#4 => .instr (.seByte (xField w) (kkField w))
  | 0x4#4 => .instr (.sneByte (xField w) (kkField w))
  | 0x5#4 => decodeRegSkip .seReg w
  | 0x6#4 => .instr (.ldByte (xField w) (kkField w))
  | 0x7#4 => .instr (.addByte (xField w) (kkField w))
  | 0x8#4 => decodeAlu w
  | 0x9#4 => decodeRegSkip .sneReg w
  | 0xA#4 => .instr (.ldI (nnnField w))
  | 0xB#4 => .instr (.jpV0 (nnnField w))
  | 0xC#4 => .instr (.rnd (xField w) (kkField w))
  | 0xD#4 => .instr (.drw (xField w) (yField w) (nField w))
  | 0xE#4 => decodeKeySkip w
  | _ => decodeMisc w

/-- Why a byte sequence is not an instruction. -/
inductive DecodeError where
  /-- Fewer than the two bytes every instruction has (R43); memory never runs out of them (R28), so only a caller
  outside the machine can meet this (log 21). -/
  | truncated
  /-- The word matches no row of the opcode map (R51). -/
  | unknownInstruction (w : Word)
deriving DecidableEq, Repr

/-- Two bytes as a word: the byte at the lower address is the high byte (R30, R43). -/
def wordOfBytes (high low : Byte) : Word := high ++ low

/-- The two bytes of a word in memory order (R30). -/
def bytesOfWord (w : Word) : List Byte := [w.extractLsb' 8 8, w.extractLsb' 0 8]

/-- Decode the first instruction of a byte sequence, with the bytes that follow it (R43, R44). -/
def decodeBytes : List Byte → Except DecodeError (Instr × List Byte)
  | high :: low :: rest =>
    match decode (wordOfBytes high low) with
    | .instr i => .ok (i, rest)
    | .unknown w => .error (.unknownInstruction w)
  | _ => .error .truncated

/-- Format `N` of R46: `op n n n`. -/
def formatN (op : Nibble) (nnn : Addr) : Word := op ++ nnn

/-- Format `XKK` of R46: `op x k k`. -/
def formatXKK (op x : Nibble) (kk : Byte) : Word := op ++ x ++ kk

/-- Formats `XY` and `XYN` of R46: `op x y s`, `D x y n`. -/
def formatXY (op x y n : Nibble) : Word := op ++ x ++ y ++ n

/-- The encoder, from the formats of R46 and the fixed digits of R49. -/
def encode : Instr → Word
  | .sys nnn => formatN 0x0#4 nnn
  | .cls => 0x00E0#16
  | .ret => 0x00EE#16
  | .jp nnn => formatN 0x1#4 nnn
  | .call nnn => formatN 0x2#4 nnn
  | .seByte x kk => formatXKK 0x3#4 x kk
  | .sneByte x kk => formatXKK 0x4#4 x kk
  | .seReg x y => formatXY 0x5#4 x y 0x0#4
  | .ldByte x kk => formatXKK 0x6#4 x kk
  | .addByte x kk => formatXKK 0x7#4 x kk
  | .ldReg x y => formatXY 0x8#4 x y 0x0#4
  | .orReg x y => formatXY 0x8#4 x y 0x1#4
  | .andReg x y => formatXY 0x8#4 x y 0x2#4
  | .xorReg x y => formatXY 0x8#4 x y 0x3#4
  | .addReg x y => formatXY 0x8#4 x y 0x4#4
  | .subReg x y => formatXY 0x8#4 x y 0x5#4
  | .shr x y => formatXY 0x8#4 x y 0x6#4
  | .subn x y => formatXY 0x8#4 x y 0x7#4
  | .shl x y => formatXY 0x8#4 x y 0xE#4
  | .sneReg x y => formatXY 0x9#4 x y 0x0#4
  | .ldI nnn => formatN 0xA#4 nnn
  | .jpV0 nnn => formatN 0xB#4 nnn
  | .rnd x kk => formatXKK 0xC#4 x kk
  | .drw x y n => formatXY 0xD#4 x y n
  | .skp x => formatXKK 0xE#4 x 0x9E#8
  | .sknp x => formatXKK 0xE#4 x 0xA1#8
  | .ldVxDT x => formatXKK 0xF#4 x 0x07#8
  | .ldVxK x => formatXKK 0xF#4 x 0x0A#8
  | .ldDTVx x => formatXKK 0xF#4 x 0x15#8
  | .ldSTVx x => formatXKK 0xF#4 x 0x18#8
  | .addI x => formatXKK 0xF#4 x 0x1E#8
  | .ldF x => formatXKK 0xF#4 x 0x29#8
  | .ldB x => formatXKK 0xF#4 x 0x33#8
  | .stRegs x => formatXKK 0xF#4 x 0x55#8
  | .ldRegs x => formatXKK 0xF#4 x 0x65#8

/-- The bytes of an instruction in memory order (R30, R43). -/
def encodeBytes (i : Instr) : List Byte := bytesOfWord (encode i)

/-- The `mask` column of the opcode map (R49). -/
def opcodeMask : Instr → Word
  | .cls | .ret => 0xFFFF#16
  | .sys _ | .jp _ | .call _ | .seByte _ _ | .sneByte _ _ | .ldByte _ _ | .addByte _ _ | .ldI _ | .jpV0 _
  | .rnd _ _ | .drw _ _ _ => 0xF000#16
  | .seReg _ _ | .ldReg _ _ | .orReg _ _ | .andReg _ _ | .xorReg _ _ | .addReg _ _ | .subReg _ _ | .shr _ _
  | .subn _ _ | .shl _ _ | .sneReg _ _ => 0xF00F#16
  | .skp _ | .sknp _ | .ldVxDT _ | .ldVxK _ | .ldDTVx _ | .ldSTVx _ | .addI _ | .ldF _ | .ldB _ | .stRegs _
  | .ldRegs _ => 0xF0FF#16

/-- The `match` column of the opcode map (R49). -/
def opcodeMatch : Instr → Word
  | .sys _ => 0x0000#16
  | .cls => 0x00E0#16
  | .ret => 0x00EE#16
  | .jp _ => 0x1000#16
  | .call _ => 0x2000#16
  | .seByte _ _ => 0x3000#16
  | .sneByte _ _ => 0x4000#16
  | .seReg _ _ => 0x5000#16
  | .ldByte _ _ => 0x6000#16
  | .addByte _ _ => 0x7000#16
  | .ldReg _ _ => 0x8000#16
  | .orReg _ _ => 0x8001#16
  | .andReg _ _ => 0x8002#16
  | .xorReg _ _ => 0x8003#16
  | .addReg _ _ => 0x8004#16
  | .subReg _ _ => 0x8005#16
  | .shr _ _ => 0x8006#16
  | .subn _ _ => 0x8007#16
  | .shl _ _ => 0x800E#16
  | .sneReg _ _ => 0x9000#16
  | .ldI _ => 0xA000#16
  | .jpV0 _ => 0xB000#16
  | .rnd _ _ => 0xC000#16
  | .drw _ _ _ => 0xD000#16
  | .skp _ => 0xE09E#16
  | .sknp _ => 0xE0A1#16
  | .ldVxDT _ => 0xF007#16
  | .ldVxK _ => 0xF00A#16
  | .ldDTVx _ => 0xF015#16
  | .ldSTVx _ => 0xF018#16
  | .addI _ => 0xF01E#16
  | .ldF _ => 0xF029#16
  | .ldB _ => 0xF033#16
  | .stRegs _ => 0xF055#16
  | .ldRegs _ => 0xF065#16

/-- The word whose low `nbits` bits are those of `w` and whose other bits are 0; every row of the opcode table has
16 bits, and a bit above them belongs to no instruction (R43). -/
def tableWord (nbits w : Nat) : Word := BitVec.ofNat 16 (w % 2 ^ min nbits 16)

/-- The instruction the decoder reads from the word of a row of spec/opcode_table.json, laid out in memory order. -/
def decodeTableWord (nbits w : Nat) : Option Instr :=
  match decodeBytes (bytesOfWord (tableWord nbits w)) with
  | .ok (i, _) => some i
  | .error _ => none

end Sys2Proof
end

