-- ==== Sys2Proof/Config.lean ====
section
/-! DEFINITION. The parameters of spec/00_scope.md R7 (`Config`), the requests a host can make at
the input ports (spec/60_exceptions.md R114), and the two free values of the model: what the host asks for when the
state holds no request it has already made, and what the 8-bit port sp_out shows of a depth above 255. -/

namespace Sys2Proof

/-- The source register of 8xy6 and 8xyE (R7 `SHIFT_SOURCE`, R78, R80). -/
inductive ShiftSource where
  | x
  | y
deriving DecidableEq, Repr, Inhabited

/-- What SYS nnn does (R7 `SYS_MODE`, R63). -/
inductive SysMode where
  | fault
  | nop
deriving DecidableEq, Repr, Inhabited

/-- The default `FONT_DATA` of spec/20_memory.md R33, one line a glyph, 0 to F. PRESUMED by the spec itself: the
bytes are from general knowledge, not in the source (GK3, log 5). -/
def defaultFont : Vector Byte 80 :=
  (#v[0xF0#8, 0x90#8, 0x90#8, 0x90#8, 0xF0#8, 0x20#8, 0x60#8, 0x20#8, 0x20#8, 0x70#8] ++
    #v[0xF0#8, 0x10#8, 0xF0#8, 0x80#8, 0xF0#8, 0xF0#8, 0x10#8, 0xF0#8, 0x10#8, 0xF0#8] ++
    #v[0x90#8, 0x90#8, 0xF0#8, 0x10#8, 0x10#8, 0xF0#8, 0x80#8, 0xF0#8, 0x10#8, 0xF0#8] ++
    #v[0xF0#8, 0x80#8, 0xF0#8, 0x90#8, 0xF0#8, 0xF0#8, 0x10#8, 0x20#8, 0x40#8, 0x40#8] ++
    #v[0xF0#8, 0x90#8, 0xF0#8, 0x90#8, 0xF0#8, 0xF0#8, 0x90#8, 0xF0#8, 0x10#8, 0xF0#8] ++
    #v[0xF0#8, 0x90#8, 0xF0#8, 0x90#8, 0x90#8, 0xE0#8, 0x90#8, 0xE0#8, 0x90#8, 0xE0#8] ++
    #v[0xF0#8, 0x80#8, 0x80#8, 0x80#8, 0xF0#8, 0xE0#8, 0x90#8, 0x90#8, 0x90#8, 0xE0#8] ++
    #v[0xF0#8, 0x80#8, 0xF0#8, 0x80#8, 0xF0#8, 0xF0#8, 0x80#8, 0xF0#8, 0x80#8, 0x80#8] : Vector Byte 80)

/-- The parameters of R7 that give the machine its shape: the sizes and widths the types of `State` are made of. The
spec's rules state their values too (R12, R16, R17, R23, R27), so they are one constant of the machine and not of a
run (log 19). -/
structure Sizes where
  /-- `MEM_SIZE`: the bytes of the address space (R27). -/
  memSize : Nat := 4096
  /-- `NUM_V`: the general registers (R12). -/
  numV : Nat := 16
  /-- `I_WIDTH`: the bits of I (R16). -/
  iWidth : Nat := 16
  /-- `PC_WIDTH`: the bits of PC (R17). -/
  pcWidth : Nat := 16
  /-- `FB_W`: the columns of pixels (R23). -/
  fbW : Nat := 64
  /-- `FB_H`: the rows of pixels (R23). -/
  fbH : Nat := 32
deriving DecidableEq, Repr

/-- The parameters of R7 that a run is made under and `State.cfg` holds, and the launch parameter `END_PC` of R124. A
statement about every state holds for every value of them; the defaults are those of R7 (log 3, log 4, log 5). -/
structure RunParams where
  /-- `FONT_BASE`: where the font installer writes and Fx29 points. -/
  fontBase : Addr := 0x050#12
  /-- `FONT_DATA`: 16 glyphs of 5 bytes, top row first, order 0 to 9 then A to F. -/
  fontData : Vector Byte 80 := defaultFont
  /-- `LOAD_ADDR`: where the program loader writes, and the reset value of PC. -/
  loadAddr : Addr := 0x200#12
  /-- `STACK_DEPTH`: the number of call-stack entries, or `none` for `unbounded`. -/
  stackDepth : Option Nat := some 16
  /-- `SHIFT_SOURCE`. -/
  shiftSource : ShiftSource := .x
  /-- `SYS_MODE`. -/
  sysMode : SysMode := .fault
  /-- `LOADSTORE_INC_I`: whether Fx55 and Fx65 move I. -/
  loadStoreIncI : Bool := false
  /-- `TICK_RATE` in Hz. No rule depends on it. -/
  tickRate : Nat := 60
  /-- `END_PC`: the address that ends a run, when a launch names one (R124). -/
  endPc : Option Word := none
deriving DecidableEq, Repr

/-- The parameters of R7, each a named field with the value R7 gives it as its default. -/
structure Config extends Sizes, RunParams
deriving DecidableEq, Repr

/-- One event at the input ports of R114. At most one is acted on at a time, so a host is a sequence of these. -/
inductive HostRequest where
  /-- `step_req`: one execute step, with KEY (`key_valid`, `key_code`) and RAND (`rand`) sampled beside it. -/
  | execute (key : Option Byte) (rand : Byte)
  /-- `tick_req`: one tick step. -/
  | tick
  /-- `ld_we`: one loader write of `ld_data` at `ld_addr`. -/
  | load (addr : Addr) (data : Byte)
  /-- `rst`: a reset. -/
  | reset
deriving DecidableEq, Repr, Inhabited

/-- A FREE VALUE (log 1): the n-th request of a host of which the state holds no script. It is opaque: nothing
constrains the order of execute steps, ticks, loads and resets, nor the KEY and RAND of an execute step
(R108, R110, R111). -/
opaque Config.hostRequest : Nat → HostRequest

/-- A FREE VALUE (log 24): what the 8-bit port sp_out shows of a call-stack depth that 8 bits do not hold, which only
an unbounded stack or a depth above 255 reaches. The spec states no value there (R19, R115); it is opaque. -/
opaque Config.spOutBeyond : Nat → Byte

end Sys2Proof
end

