-- ==== Sys2Proof/Machine/Params.lean ====
section
/-! DEFINITION. The values the parameters of spec/00_scope.md R7 have on this hardware: the spec's own defaults. The
types of `State` are made of its sizes and widths; `State.reset` starts with its run parameters, and every statement
about a state holds for every value of those. -/

namespace Sys2Proof.Machine

/-- The parameter values of R7 for this hardware. Those the source leaves open are the spec's defaults, a DESIGN
CHOICE of the spec (decisions D2, D4, D9, D10, D17, D18; log 4). -/
abbrev hardwareConfig : Config := {}

end Sys2Proof.Machine
end

