-- ==== Sys2Proof/Machine/State.lean ====
section
/-! DEFINITION. The state of the core as plain data (spec/10_state.md R12 to R25, spec/20_memory.md R27), the reasons
a step can stop, and the state after reset (spec/70_reset_and_hazards.md R120). -/

namespace Sys2Proof.Machine

/-- Memory: (address, byte) pairs, addresses strictly rising and below `MEM_SIZE`, no entry equal to `unlistedByte`
(R27). -/
abbrev Memory := List Host.Cell

/-- What an unlisted address reads as: 0, the reset value R27 states for every byte (log 14). -/
def unlistedByte : Byte := 0#8

/-- Every listed address is above `low` and below `MEM_SIZE`, the addresses rise strictly, and no entry is the unlisted
value. -/
def Memory.wfAbove : Option Nat → Memory → Bool
  | _, [] => true
  | low, (a, v) :: rest =>
    (match low with
      | none => true
      | some b => decide (b < a)) &&
      decide (a < hardwareConfig.memSize) && v != unlistedByte && Memory.wfAbove (some a) rest

/-- The canonical form of memory: equal memories are equal lists. -/
def Memory.wf (m : Memory) : Bool := Memory.wfAbove none m

/-- A pixel column, 0 to 63 (R23). -/
abbrev Column := BitVec 6

/-- A pixel row, 0 to 31 (R23). -/
abbrev Row := BitVec 5

/-- The framebuffer: 32 rows of 64 one-bit pixels; `fb[r][c]` is FB[c, r] (R23). -/
abbrev FrameBuffer := Vector (Vector Bool hardwareConfig.fbW) hardwareConfig.fbH

/-- Every pixel 0 (R23, R86). -/
def FrameBuffer.blank : FrameBuffer := Vector.replicate hardwareConfig.fbH (Vector.replicate hardwareConfig.fbW false)

/-- The causes of R99. -/
inductive FatalCause where
  /-- Code 1: the fetched word matches no row of the opcode map. Raised by the execute step. -/
  | unknownInstruction
  /-- Code 2: 00EE with SP = 0. -/
  | stackUnderflow
  /-- Code 3: 2nnn with SP = `STACK_DEPTH`. -/
  | stackOverflow
  /-- Code 4: raised by nothing; a register index is 4 bits by its type, so it cannot occur (R99). -/
  | operandOutOfRange
  /-- Code 5: 0nnn with `SYS_MODE = fault`. -/
  | sysUnsupported
deriving DecidableEq, Repr

/-- The fault record of R25: the cause, the address A the instruction was fetched from, and its word W. -/
structure FaultRecord where
  cause : FatalCause
  pc : Word
  word : Word
deriving DecidableEq, Repr

/-- The run state (R24). -/
inductive Mode where
  /-- Each execute step fetches and executes one instruction. -/
  | running
  /-- An Fx0A is suspended and waits for a key for Vx. -/
  | awaitingKey (x : Nibble)
  /-- A fatal condition has stopped the core. -/
  | halted (f : FaultRecord)
deriving DecidableEq, Repr

/-- The state: every piece the spec gives the core, the configuration it runs under, and the model's own fields for
the inputs the host drives. SP is `stack.length` (R19, log 9). -/
structure State where
  /-- V0 to VF (R12); VF is also the flags register (R13). -/
  v : Vector Byte hardwareConfig.numV
  /-- The index register I, `I_WIDTH` bits (R16). -/
  i : BitVec hardwareConfig.iWidth
  /-- The program counter PC, `PC_WIDTH` bits (R17). -/
  pc : BitVec hardwareConfig.pcWidth
  /-- The call stack, S[0] first, so the top is the last entry (R20). -/
  stack : List Word
  /-- The delay timer DT (R22). -/
  dt : Byte
  /-- The sound timer ST (R22). -/
  st : Byte
  /-- The framebuffer FB (R23). -/
  fb : FrameBuffer
  /-- The mode and, when halted, the fault record (R24, R25). -/
  mode : Mode
  /-- Memory M (R27). -/
  mem : Memory
  /-- Whether a loader write is still accepted: no execute step since reset (R41, R114; log 11). -/
  loadOpen : Bool
  /-- The run parameters of R7, fixed for a run (log 3). -/
  cfg : RunParams
  /-- KEY as sampled at the execute step in progress (R110; the model's own field, log 10). -/
  key : Option Byte
  /-- RAND as sampled at the execute step in progress (R111; the model's own field, log 10). -/
  rand : Byte
  /-- The requests the host has already made, oldest first (R108, R114; the model's own field, log 1). -/
  script : List HostRequest
  /-- How many free requests have been taken (the model's own field, log 1). -/
  drawn : Nat
deriving DecidableEq, Repr

/-- Why a step would stop outside the state. There is no such reason: a fatal condition of R99 is a next state in
mode Halted (R100), Halted is a state of its own (R101), and no access can fault on its address (R28); log 7. -/
inductive Fault where
deriving DecidableEq, Repr

/-- Why the model gives a step no meaning. -/
inductive Refusal where
  /-- Raised by an arm of `exec` whose instruction has no meaning yet; no arm raises it now. Safe. -/
  | notModelled (mnemonic : String)
  /-- Raised by a loader write after the first execute step, a host that spec/93_implementation_defined.md U19 says
  to refuse (R41, R116; log 8). No instruction raises it. Safe: claims say nothing of such a host. -/
  | loadAfterFirstStep
deriving DecidableEq, Repr

/-- The machine right after reset (R120): all zero, PC at `LOAD_ADDR`, Running, no fault record, memory all 0. Of
the model's own fields, `key`, `rand`, `script` and `drawn` are a DESIGN CHOICE (log 1, log 10). -/
def State.reset : State where
  v := Vector.replicate hardwareConfig.numV 0#8
  i := 0#16
  pc := hardwareConfig.loadAddr.setWidth hardwareConfig.pcWidth
  stack := []
  dt := 0#8
  st := 0#8
  fb := FrameBuffer.blank
  mode := .running
  mem := []
  loadOpen := true
  cfg := hardwareConfig.toRunParams
  key := none
  rand := 0#8
  script := []
  drawn := 0

end Sys2Proof.Machine
end

