-- ==== Sys2Proof/Machine/Ops.lean ====
section
/-! DEFINITION. The named operations over memory, registers, the call stack, the framebuffer, the timers and the mode
that every meaning is written with, raising a fatal condition among them (spec/00_scope.md R9, spec/10_state.md R21,
spec/60_exceptions.md R100). There is no return from a fatal condition to write beside it (R103): only a reset leaves
Halted (R120, `State.resetCore`). -/

namespace Sys2Proof.Machine

/-! Memory as a list (R27). -/

/-- The byte listed at an address, or the unlisted value. -/
def Memory.lookup : Memory → Nat → Byte
  | [], _ => unlistedByte
  | (b, w) :: rest, a => if b = a then w else Memory.lookup rest a

/-- The list with a cell placed by its address, in the stead of a cell of the same address. -/
def Memory.insertCell : Memory → Nat → Byte → Memory
  | [], a, v => [(a, v)]
  | (b, w) :: rest, a, v =>
    if a < b then (a, v) :: (b, w) :: rest
    else if a = b then (a, v) :: rest
    else (b, w) :: Memory.insertCell rest a v

/-- The list with the byte at one address replaced, keeping the canonical form: a byte that is the unlisted value is
not listed. -/
def Memory.update (m : Memory) (a : Nat) (v : Byte) : Memory :=
  if v = unlistedByte then m.filter (fun cell => cell.1 != a) else m.insertCell a v

/-- The address that reaches memory: reduced mod 4096 (R28). -/
def memAddr (a : Nat) : Nat := a % hardwareConfig.memSize

/-- `MemRead(a, 1)` (R9, R27): the address is a natural number, reduced here. -/
def State.memRead (s : State) (a : Nat) : Byte := s.mem.lookup (memAddr a)

/-- `MemWrite(a, 1, v)` (R9, R27). -/
def State.memWrite (s : State) (a : Nat) (v : Byte) : State := { s with mem := s.mem.update (memAddr a) v }

/-! Registers (R12 to R19, R22). -/

/-- The flags register's index (R13). -/
def regF : Nibble := 0xF#4

/-- `V[x]` read (R9, R12). -/
def State.getV (s : State) (x : Nibble) : Byte := s.v[x.toNat]'x.isLt

/-- `V[x] <- b` (R9, R12): no register is hardwired. -/
def State.setV (s : State) (x : Nibble) (b : Byte) : State := { s with v := s.v.set x.toNat b x.isLt }

/-- `I <- w` (R9, R16). -/
def State.setI (s : State) (w : Word) : State := { s with i := w }

/-- `PC <- w` (R9, R17). -/
def State.setPC (s : State) (w : Word) : State := { s with pc := w }

/-- `DT <- b` (R9, R22). -/
def State.setDT (s : State) (b : Byte) : State := { s with dt := b }

/-- `ST <- b` (R9, R22). -/
def State.setST (s : State) (b : Byte) : State := { s with st := b }

/-- `mode <- m` (R24). -/
def State.setMode (s : State) (m : Mode) : State := { s with mode := m }

/-- `SP`: the depth of the call stack (R19). -/
def State.sp (s : State) : Nat := s.stack.length

/-- The fetch's advance and the skip's: `PC <- trunc_16(PC + 2)` (R17, R54, R56). -/
def State.advancePC (s : State) : State := s.setPC (s.pc + 2#16)

/-- To skip when a condition holds (R56): PC advances by a further 2; the skipped word is not read. -/
def State.skipIf (s : State) (c : Bool) : State := if c then s.advancePC else s

/-- A, the address of the instruction being executed: while it executes PC holds `trunc_16(A + 2)` (R17, R54;
log 12). -/
def State.instrAddr (s : State) : Word := s.pc - 2#16

/-! The call stack (R20, R21). -/

/-- The stack holds `STACK_DEPTH` entries (R21); never so when the depth is `unbounded`. -/
def State.stackFull (s : State) : Bool := s.cfg.stackDepth == some s.sp

/-- The stack replaced whole. -/
def State.setStack (s : State) (l : List Word) : State := { s with stack := l }

/-- `Push(v)` (R21): `none` where it raises StackOverflow; the check comes before any write. -/
def State.push (s : State) (w : Word) : Option State :=
  if s.stackFull then none else some (s.setStack (s.stack ++ [w]))

/-- `Pop()` (R21): the top entry and the state without it; `none` where it raises StackUnderflow. -/
def State.pop (s : State) : Option (Word × State) :=
  match s.stack.getLast? with
  | none => none
  | some w => some (w, s.setStack s.stack.dropLast)

/-! The framebuffer (R23). -/

/-- A pixel of a framebuffer. -/
def FrameBuffer.pixel (fb : FrameBuffer) (c : Column) (r : Row) : Bool := (fb[r.toNat]'r.isLt)[c.toNat]'c.isLt

/-- The framebuffer with one pixel XORed with 1. -/
def FrameBuffer.toggle (fb : FrameBuffer) (c : Column) (r : Row) : FrameBuffer :=
  fb.set r.toNat ((fb[r.toNat]'r.isLt).set c.toNat (!fb.pixel c r) c.isLt) r.isLt

/-- The framebuffer replaced whole. -/
def State.setFB (s : State) (fb : FrameBuffer) : State := { s with fb := fb }

/-! Fatal conditions (R99 to R104). -/

/-- `raise Fatal(cause, {pc: A, word: W})` (R100): the mode becomes Halted with the fault record; nothing else
changes (R102). -/
def State.raiseFatal (s : State) (cause : FatalCause) (a w : Word) : State :=
  s.setMode (.halted { cause := cause, pc := a, word := w })

/-- The codes of R99. -/
def causeCode : FatalCause → BitVec 3
  | .unknownInstruction => 1#3
  | .stackUnderflow => 2#3
  | .stackOverflow => 3#3
  | .operandOutOfRange => 4#3
  | .sysUnsupported => 5#3

/-! Fetch (R43, R54). -/

/-- W: the byte at PC is the high byte, the byte at PC + 1 the low byte, both addresses mod 4096 (R30, R43). -/
def State.fetchWord (s : State) : Word := wordOfBytes (s.memRead s.pc.toNat) (s.memRead (s.pc.toNat + 1))

/-- The two bytes of a word stored where the next fetch reads them. -/
def State.placeWord (s : State) (w : Word) : State :=
  (s.memWrite s.pc.toNat (w.extractLsb' 8 8)).memWrite (s.pc.toNat + 1) (w.extractLsb' 0 8)

/-! The steps that execute no instruction. -/

/-- The wait step of an Fx0A (R92): a key, if one is present, is loaded and the core runs again; nothing is fetched
and PC does not change. -/
def State.waitStep (s : State) (x : Nibble) : State :=
  match s.key with
  | some k => (s.setV x k).setMode .running
  | none => s

/-- One count of a timer, with the floor of 0 (R22, R107). -/
def countDown (b : Byte) : Byte := if b = 0#8 then 0#8 else b - 1#8

/-- `TickStep` (R107): both counters count down once; in Halted there is no tick step (R101). -/
def State.tickStep (s : State) : State :=
  match s.mode with
  | .halted _ => s
  | .running | .awaitingKey _ => (s.setDT (countDown s.dt)).setST (countDown s.st)

/-- A reset, in any mode (R120): every piece of state takes its reset value. The configuration is fixed for a run and
the inputs are no state of the core (R26), so they stay (log 22). -/
def State.resetCore (s : State) : State :=
  { State.reset with
    pc := s.cfg.loadAddr.setWidth 16
    cfg := s.cfg
    key := s.key
    rand := s.rand
    script := s.script
    drawn := s.drawn }

/-- KEY and RAND sampled with `step_req` (R114), and the loader window closed by the execute step (R41). -/
def State.sample (s : State) (key : Option Byte) (rand : Byte) : State :=
  { s with key := key, rand := rand, loadOpen := false }

/-! The host's requests (R108, R113, R114; log 1). -/

/-- The request the next step performs: the oldest of the script or, when there is none, a free one. -/
def State.nextRequest (s : State) : HostRequest :=
  match s.script with
  | r :: _ => r
  | [] => Config.hostRequest s.drawn

/-- The state with that request taken. -/
def State.takeRequest (s : State) : State :=
  match s.script with
  | _ :: rest => { s with script := rest }
  | [] => { s with drawn := s.drawn + 1 }

end Sys2Proof.Machine
end

