-- ==== Sys2Proof/Machine/Flags.lean ====
section
/-! DEFINITION. The flag computations (spec/10_state.md R13, spec/43_alu.md R71, R76 to R81) and the one order in
which a flag-setting instruction writes: the primary result, then VF. -/

namespace Sys2Proof.Machine

/-- A flag as a byte: exactly 0x00 or 0x01 (R81). -/
def flagByte (c : Bool) : Byte := if c then 1#8 else 0#8

/-- Carry out of an addition: the unsigned sum exceeds 255 (R76). -/
def carryOut (a b : Byte) : Bool := decide (255 < a.toNat + b.toNat)

/-- No borrow in `a - b`: a is at least b (R77, R79). -/
def noBorrow (a b : Byte) : Bool := decide (b.toNat ≤ a.toNat)

/-- The bit a right shift moves out (R78). -/
def shiftedOutRight (b : Byte) : Bool := b.getLsbD 0

/-- The bit a left shift moves out (R80). -/
def shiftedOutLeft (b : Byte) : Bool := b.getLsbD 7

/-- The primary result to Vx, then the flag to VF (R71): with x = F the flag stands. -/
def State.writeResultThenFlag (s : State) (x : Nibble) (result : Byte) (flag : Bool) : State :=
  (s.setV x result).setV regF (flagByte flag)

end Sys2Proof.Machine
end

