-- ==== Sys2Proof/Machine/Operands.lean ====
section
/-! DEFINITION. How the operands of an instruction are formed from its fields and the state (spec/30_encoding.md R47
and the rule of each instruction). -/

namespace Sys2Proof.Machine

/-- `zext_16(nnn)`: an address field written to PC or I (R47). -/
def zextAddr (nnn : Addr) : Word := nnn.setWidth 16

/-- `zext_16` of a byte (R60, R83). -/
def zextByte (b : Byte) : Word := b.setWidth 16

/-- The target of Bnnn: `zext_16(nnn) + zext_16(V[0])`, not reduced mod 4096 (R60). -/
def State.offsetTarget (s : State) (nnn : Addr) : Word := zextAddr nnn + zextByte (s.getV 0#4)

/-- The value 8xy6 and 8xyE shift: Vx or Vy, by `SHIFT_SOURCE` (R78, R80). -/
def State.shiftOperand (s : State) (x y : Nibble) : Byte :=
  match s.cfg.shiftSource with
  | .x => s.getV x
  | .y => s.getV y

/-- The address of the glyph a byte's low nibble selects (R84). -/
def State.glyphAddr (s : State) (b : Byte) : Word := zextAddr s.cfg.fontBase + 5#16 * zextByte (b &&& 0x0F#8)

/-- `V mod 64`: the origin column of a sprite (R87). -/
def originColumn (b : Byte) : Column := b.setWidth 6

/-- `V mod 32`: the origin row of a sprite (R87). -/
def originRow (b : Byte) : Row := b.setWidth 5

/-- Whether the key a byte names is the pressed one: `KEY == some(k) and k == V[x]`, whole bytes (R89, R90). -/
def State.keyIs (s : State) (b : Byte) : Bool := s.key == some b

/-- The hundreds digit of a byte (R96). -/
def bcdHundreds (b : Byte) : Byte := BitVec.ofNat 8 (b.toNat / 100)

/-- The tens digit of a byte (R96). -/
def bcdTens (b : Byte) : Byte := BitVec.ofNat 8 (b.toNat / 10 % 10)

/-- The ones digit of a byte (R96). -/
def bcdOnes (b : Byte) : Byte := BitVec.ofNat 8 (b.toNat % 10)

/-- I after a block transfer of V0..Vx: moved past the block when `LOADSTORE_INC_I`, else unchanged (R97, R98). -/
def State.blockIndex (s : State) (x : Nibble) : Word :=
  if s.cfg.loadStoreIncI then s.i + BitVec.ofNat 16 (x.toNat + 1) else s.i

end Sys2Proof.Machine
end

