-- ==== Sys2Proof/Machine/Alu.lean ====
section
/-! DEFINITION. The register ALU, family 8 (spec/43_alu.md R70 to R81). Every operand is read from the state before
any write (R71); the arithmetic wraps mod 256 (R70). -/

namespace Sys2Proof.Machine

/-- 8xy0, LD Vx, Vy (R72). -/
def execLdReg (x y : Nibble) (s : State) : Host.Outcome State Fault Refusal := .next (s.setV x (s.getV y))

/-- 8xy1, OR Vx, Vy (R73): VF is not written as a flag. -/
def execOrReg (x y : Nibble) (s : State) : Host.Outcome State Fault Refusal :=
  .next (s.setV x (s.getV x ||| s.getV y))

/-- 8xy2, AND Vx, Vy (R74): VF is not written as a flag. -/
def execAndReg (x y : Nibble) (s : State) : Host.Outcome State Fault Refusal :=
  .next (s.setV x (s.getV x &&& s.getV y))

/-- 8xy3, XOR Vx, Vy (R75): VF is not written as a flag. -/
def execXorReg (x y : Nibble) (s : State) : Host.Outcome State Fault Refusal :=
  .next (s.setV x (s.getV x ^^^ s.getV y))

/-- 8xy4, ADD Vx, Vy (R76): VF is the carry. -/
def execAddReg (x y : Nibble) (s : State) : Host.Outcome State Fault Refusal :=
  .next (s.writeResultThenFlag x (s.getV x + s.getV y) (carryOut (s.getV x) (s.getV y)))

/-- 8xy5, SUB Vx, Vy (R77): VF is 1 when there is no borrow. -/
def execSubReg (x y : Nibble) (s : State) : Host.Outcome State Fault Refusal :=
  .next (s.writeResultThenFlag x (s.getV x - s.getV y) (noBorrow (s.getV x) (s.getV y)))

/-- 8xy6, SHR Vx, Vy (R78): VF is the bit shifted out. -/
def execShr (x y : Nibble) (s : State) : Host.Outcome State Fault Refusal :=
  .next (s.writeResultThenFlag x (s.shiftOperand x y >>> 1) (shiftedOutRight (s.shiftOperand x y)))

/-- 8xy7, SUBN Vx, Vy (R79): the operands of SUB swapped, VF 1 when Vy is at least Vx. -/
def execSubn (x y : Nibble) (s : State) : Host.Outcome State Fault Refusal :=
  .next (s.writeResultThenFlag x (s.getV y - s.getV x) (noBorrow (s.getV y) (s.getV x)))

/-- 8xyE, SHL Vx, Vy (R80): VF is the bit shifted out. -/
def execShl (x y : Nibble) (s : State) : Host.Outcome State Fault Refusal :=
  .next (s.writeResultThenFlag x (s.shiftOperand x y <<< 1) (shiftedOutLeft (s.shiftOperand x y)))

end Sys2Proof.Machine
end

