-- ==== Sys2Proof/Machine/Block.lean ====
section
/-! DEFINITION. BCD and block transfer (spec/49_bcd_block.md R96 to R98). Every address is reduced mod 4096 (R28). -/

namespace Sys2Proof.Machine

/-- `MemWrite(base + k, 1, V[k])` for k = 0 .. count - 1 (R97). -/
def State.storeRegs (s : State) (base count : Nat) : State :=
  (List.range count).foldl (fun acc k => acc.memWrite (base + k) (acc.getV (BitVec.ofNat 4 k))) s

/-- `V[k] <- MemRead(base + k, 1)` for k = 0 .. count - 1 (R98). -/
def State.loadRegs (s : State) (base count : Nat) : State :=
  (List.range count).foldl (fun acc k => acc.setV (BitVec.ofNat 4 k) (acc.memRead (base + k))) s

/-- Fx33, LD B, Vx (R96): hundreds, tens, ones. -/
def execLdB (x : Nibble) (s : State) : Host.Outcome State Fault Refusal :=
  let b := s.getV x
  .next (((s.memWrite s.i.toNat (bcdHundreds b)).memWrite (s.i.toNat + 1) (bcdTens b)).memWrite
    (s.i.toNat + 2) (bcdOnes b))

/-- Fx55, LD [I], Vx (R97): V0 to Vx inclusive. -/
def execStRegs (x : Nibble) (s : State) : Host.Outcome State Fault Refusal :=
  .next ((s.storeRegs s.i.toNat (x.toNat + 1)).setI (s.blockIndex x))

/-- Fx65, LD Vx, [I] (R98): V0 to Vx inclusive. -/
def execLdRegs (x : Nibble) (s : State) : Host.Outcome State Fault Refusal :=
  .next ((s.loadRegs s.i.toNat (x.toNat + 1)).setI (s.blockIndex x))

end Sys2Proof.Machine
end

