-- ==== Sys2Proof/Machine/Control.lean ====
section
/-! DEFINITION. Control transfer: SYS, RET, JP, CALL, JP V0 (spec/40_control.md R59 to R63). At entry PC already holds
`trunc_16(A + 2)` (R54). -/

namespace Sys2Proof.Machine

/-- 0nnn, SYS nnn (R63): SysUnsupported under `SYS_MODE = fault`, no effect under `nop`. -/
def execSys (nnn : Addr) (s : State) : Host.Outcome State Fault Refusal :=
  match s.cfg.sysMode with
  | .fault => .next (s.raiseFatal .sysUnsupported s.instrAddr (encode (.sys nnn)))
  | .nop => .next s

/-- 00EE, RET (R62): `PC <- Pop()`, or StackUnderflow. -/
def execRet (s : State) : Host.Outcome State Fault Refusal :=
  match s.pop with
  | some (w, t) => .next (t.setPC w)
  | none => .next (s.raiseFatal .stackUnderflow s.instrAddr (encode .ret))

/-- 1nnn, JP nnn (R59). -/
def execJp (nnn : Addr) (s : State) : Host.Outcome State Fault Refusal := .next (s.setPC (zextAddr nnn))

/-- 2nnn, CALL nnn (R61): `Push(PC); PC <- zext_16(nnn)`, or StackOverflow. -/
def execCall (nnn : Addr) (s : State) : Host.Outcome State Fault Refusal :=
  match s.push s.pc with
  | some t => .next (t.setPC (zextAddr nnn))
  | none => .next (s.raiseFatal .stackOverflow s.instrAddr (encode (.call nnn)))

/-- Bnnn, JP V0, nnn (R60). -/
def execJpV0 (nnn : Addr) (s : State) : Host.Outcome State Fault Refusal := .next (s.setPC (s.offsetTarget nnn))

end Sys2Proof.Machine
end

