-- ==== Sys2Proof/Machine/Display.lean ====
section
/-! DEFINITION. The display: CLS and DRW (spec/46_display.md R86 to R88). The loops of R87 are folds over the row and
column offsets in the rule's order. Columns and rows are 6 and 5 bits, so a sum wraps mod 64 and mod 32. -/

namespace Sys2Proof.Machine

/-- The framebuffer while a sprite is drawn, and whether a set pixel has been turned off so far (R87 `hit`). -/
structure Canvas where
  fb : FrameBuffer
  hit : Bool
deriving DecidableEq, Repr

/-- XOR one set sprite bit into a pixel, recording a collision (R87). -/
def Canvas.plot (cv : Canvas) (c : Column) (r : Row) : Canvas :=
  { fb := cv.fb.toggle c r, hit := cv.hit || cv.fb.pixel c r }

/-- One sprite row: bit 7 is column offset 0 (R87; PRESUMED by the spec, GK4, log 16). -/
def Canvas.plotRow (cv : Canvas) (bits : Byte) (cx : Column) (py : Row) : Canvas :=
  (List.range 8).foldl (fun acc c => if bits.getLsbD (7 - c) then acc.plot (cx + BitVec.ofNat 6 c) py else acc) cv

/-- `n` sprite rows, top to bottom, read from I on with every address mod 4096 (R87, R28). -/
def State.plotSprite (s : State) (cx : Column) (cy : Row) (n : Nat) : Canvas :=
  (List.range n).foldl
    (fun acc r => acc.plotRow (s.memRead (s.i.toNat + r)) cx (cy + BitVec.ofNat 5 r))
    { fb := s.fb, hit := false }

/-- 00E0, CLS (R86). -/
def execCls (s : State) : Host.Outcome State Fault Refusal := .next (s.setFB FrameBuffer.blank)

/-- Dxyn, DRW Vx, Vy, n (R87): the origin is read, VF cleared, the sprite drawn, and VF written with the collision
last. -/
def execDrw (x y n : Nibble) (s : State) : Host.Outcome State Fault Refusal :=
  let cx := originColumn (s.getV x)
  let cy := originRow (s.getV y)
  let cleared := s.setV regF 0#8
  let cv := cleared.plotSprite cx cy n.toNat
  .next ((cleared.setFB cv.fb).setV regF (flagByte cv.hit))

end Sys2Proof.Machine
end

