-- ==== Sys2Proof/Machine/Immediate.lean ====
section
/-! DEFINITION. Immediate load and add (spec/42_immediate.md R68, R69). Neither writes a flag. -/

namespace Sys2Proof.Machine

/-- 6xkk, LD Vx, kk (R68). -/
def execLdByte (x : Nibble) (kk : Byte) (s : State) : Host.Outcome State Fault Refusal := .next (s.setV x kk)

/-- 7xkk, ADD Vx, kk (R69): the sum mod 256, no carry recorded. -/
def execAddByte (x : Nibble) (kk : Byte) (s : State) : Host.Outcome State Fault Refusal :=
  .next (s.setV x (s.getV x + kk))

end Sys2Proof.Machine
end

