-- ==== Sys2Proof/Machine/Index.lean ====
section
/-! DEFINITION. The index register (spec/44_index.md R82 to R84). I is 16 bits wide and never masked to 12 (R16). -/

namespace Sys2Proof.Machine

/-- Annn, LD I, nnn (R82). -/
def execLdI (nnn : Addr) (s : State) : Host.Outcome State Fault Refusal := .next (s.setI (zextAddr nnn))

/-- Fx1E, ADD I, Vx (R83): the sum mod 65536, no flag. -/
def execAddI (x : Nibble) (s : State) : Host.Outcome State Fault Refusal :=
  .next (s.setI (s.i + zextByte (s.getV x)))

/-- Fx29, LD F, Vx (R84). -/
def execLdF (x : Nibble) (s : State) : Host.Outcome State Fault Refusal := .next (s.setI (s.glyphAddr (s.getV x)))

end Sys2Proof.Machine
end

