-- ==== Sys2Proof/Machine/Keys.lean ====
section
/-! DEFINITION. The key query and the wait for a key (spec/47_keys.md R89 to R91). KEY is sampled into `State.key`
(spec/60_exceptions.md R110); the wait step itself is `State.waitStep` (R92). -/

namespace Sys2Proof.Machine

/-- Ex9E, SKP Vx (R89). -/
def execSkp (x : Nibble) (s : State) : Host.Outcome State Fault Refusal := .next (s.skipIf (s.keyIs (s.getV x)))

/-- ExA1, SKNP Vx (R90): skips exactly when SKP does not. -/
def execSknp (x : Nibble) (s : State) : Host.Outcome State Fault Refusal := .next (s.skipIf (!s.keyIs (s.getV x)))

/-- Fx0A, LD Vx, K (R91): the core waits; this step does not look at KEY. -/
def execLdVxK (x : Nibble) (s : State) : Host.Outcome State Fault Refusal := .next (s.setMode (.awaitingKey x))

end Sys2Proof.Machine
end

