-- ==== Sys2Proof/Machine/Random.lean ====
section
/-! DEFINITION. The random byte (spec/45_random.md R85). RAND is an input of the step, sampled into `State.rand`
(spec/60_exceptions.md R111, R114); no law ties one draw to another. -/

namespace Sys2Proof.Machine

/-- Cxkk, RND Vx, kk (R85). -/
def execRnd (x : Nibble) (kk : Byte) (s : State) : Host.Outcome State Fault Refusal := .next (s.setV x (s.rand &&& kk))

end Sys2Proof.Machine
end

