-- ==== Sys2Proof/Machine/Timers.lean ====
section
/-! DEFINITION. Timer transfer (spec/48_timers.md R93 to R95). -/

namespace Sys2Proof.Machine

/-- Fx07, LD Vx, DT (R93). -/
def execLdVxDT (x : Nibble) (s : State) : Host.Outcome State Fault Refusal := .next (s.setV x s.dt)

/-- Fx15, LD DT, Vx (R94). -/
def execLdDTVx (x : Nibble) (s : State) : Host.Outcome State Fault Refusal := .next (s.setDT (s.getV x))

/-- Fx18, LD ST, Vx (R95). -/
def execLdSTVx (x : Nibble) (s : State) : Host.Outcome State Fault Refusal := .next (s.setST (s.getV x))

end Sys2Proof.Machine
end

