-- ==== Sys2Proof/Machine/ExecStep.lean ====
section
/-! DEFINITION. The kinds of step the core takes (spec/60_exceptions.md R113): the execute step (spec/30_encoding.md
R54, R55), the tick step (R107), the loader's write (R114) and the reset (spec/70_reset_and_hazards.md R120). -/

namespace Sys2Proof.Machine

/-- `ExecStep` in mode Running (R54): fetch at A, advance PC, decode, execute; an unknown word raises
UnknownInstruction (R51). -/
def runInstruction (s : State) : Host.Outcome State Fault Refusal :=
  match decode s.fetchWord with
  | .instr i => exec i s.advancePC
  | .unknown w => .next (s.advancePC.raiseFatal .unknownInstruction s.pc w)

/-- One execute step with KEY and RAND sampled (R54, R55, R92, R101). In Halted there is none: nothing changes. -/
def execStep (key : Option Byte) (rand : Byte) (s : State) : Host.Outcome State Fault Refusal :=
  match s.mode with
  | .running => runInstruction (s.sample key rand)
  | .awaitingKey x => .next ((s.sample key rand).waitStep x)
  | .halted _ => .next s

/-- One loader write `M[ld_addr] <- ld_data`, accepted only between a reset and the first execute step (R41, R114);
after it the model refuses the host (U19, log 8). -/
def loaderWrite (addr : Addr) (data : Byte) (s : State) : Host.Outcome State Fault Refusal :=
  if s.loadOpen then .next (s.memWrite addr.toNat data) else .refused .loadAfterFirstStep

/-- One event at the input ports (R114). -/
def performRequest (r : HostRequest) (s : State) : Host.Outcome State Fault Refusal :=
  match r with
  | .execute key rand => execStep key rand s
  | .tick => .next s.tickStep
  | .load addr data => loaderWrite addr data s
  | .reset => .next s.resetCore

end Sys2Proof.Machine
end

