-- ==== Sys2Proof/Machine/Step.lean ====
section
/-! DEFINITION. One step of the machine: the host's next request is taken and performed (spec/60_exceptions.md R108,
R113, R114; log 1, log 2). -/

namespace Sys2Proof.Machine

/-- One step: the oldest request of the script, or a free one, is taken and performed. -/
def step (s : State) : Host.Outcome State Fault Refusal := performRequest s.nextRequest s.takeRequest

/-- `s` with a word stored where the next fetch reads it, the core Running, and an execute step as the host's next
request, so that the very next step fetches and runs exactly that word (log 2). KEY and RAND of that request are
what the ports last held. -/
def State.withFetchWord (s : State) (nbits w : Nat) : State :=
  { s.placeWord (tableWord nbits w) with mode := .running, script := .execute s.key s.rand :: s.script }

end Sys2Proof.Machine
end

