-- ==== Sys2Proof/Machine/Ports.lean ====
section
/-! DEFINITION. The output ports (spec/60_exceptions.md R115), the font installer's and the program loader's writes as
scripts (spec/70_reset_and_hazards.md R121). Outputs show the state after the last completed step and change
nothing. -/

namespace Sys2Proof.Machine

/-- `mode_out`: 0 = Running, 1 = AwaitingKey, 2 = Halted (R115). -/
def modeOut : Mode → BitVec 2
  | .running => 0#2
  | .awaitingKey _ => 1#2
  | .halted _ => 2#2

/-- The fault record, when `mode_out` = 2 (R115). -/
def faultOut : Mode → Option FaultRecord
  | .halted f => some f
  | .running | .awaitingKey _ => none

/-- What `sp_out` shows of a stack pointer: the number itself where 8 bits hold it, which is every depth up to 255;
beyond that a free value, since R19 makes SP a natural number there and R115 keeps the port at 8 bits (log 24). -/
def spPort (sp : Nat) : Byte := if sp < 256 then BitVec.ofNat 8 sp else Config.spOutBeyond sp

/-- The output ports but for the framebuffer's read port (R115). The fault ports have no meaning unless Halted, so
they are absent then (log 23). -/
structure Outputs where
  stOut : Byte
  dtOut : Byte
  vOut : Vector Byte hardwareConfig.numV
  iOut : Word
  pcOut : Word
  spOut : Byte
  modeOut : BitVec 2
  faultCause : Option (BitVec 3)
  faultPc : Option Word
  faultWord : Option Word
deriving DecidableEq, Repr

/-- What the host reads at the output ports (R115). -/
def State.outputs (s : State) : Outputs where
  stOut := s.st
  dtOut := s.dt
  vOut := s.v
  iOut := s.i
  pcOut := s.pc
  spOut := spPort s.sp
  modeOut := modeOut s.mode
  faultCause := (faultOut s.mode).map fun f => causeCode f.cause
  faultPc := (faultOut s.mode).map FaultRecord.pc
  faultWord := (faultOut s.mode).map FaultRecord.word

/-- `fb_pix = FB[fb_col, fb_row]` (R115). -/
def State.fbPix (s : State) (col : Column) (row : Row) : Bool := s.fb.pixel col row

/-- Loader writes of consecutive bytes from an address on (R121). -/
def loadScript (base : Nat) : List Byte → List HostRequest
  | [] => []
  | b :: rest => .load (BitVec.ofNat 12 base) b :: loadScript (base + 1) rest

/-- The font installer: M[FONT_BASE + k] <- FONT_DATA[k] for k = 0..79 (R121). -/
def fontScript (cfg : RunParams) : List HostRequest := loadScript cfg.fontBase.toNat cfg.fontData.toList

/-- The program loader: M[LOAD_ADDR + k] <- P[k] (R121). The caller guarantees that the program fits. -/
def programScript (cfg : RunParams) (program : List Byte) : List HostRequest := loadScript cfg.loadAddr.toNat program

/-- The boot writes in the order of R121: the font, then the program. -/
def bootScript (cfg : RunParams) (program : List Byte) : List HostRequest := fontScript cfg ++ programScript cfg program

end Sys2Proof.Machine
end

