-- ==== Sys2Proof/Safety.lean ====
section
/-! DEFINITION. The terms claims are stated in: which parts of the state two states may differ in, what each
instruction reads and writes (spec/10_state.md R14), when a fatal condition arises (spec/60_exceptions.md R99), the
invariant, runs and their outcomes (spec/70_reset_and_hazards.md R124) and what a claim may assume of the host (R108,
R129). -/

namespace Sys2Proof.Machine

/-- A part of the core's state that a step may change. -/
inductive Part where
  | v (x : Nibble)
  | i
  | pc
  | stack
  | dt
  | st
  | pixel (c : Column) (r : Row)
  | screen
  | mode
  /-- The byte of memory at an address of the address space. -/
  | byte (a : Nat)
deriving DecidableEq, Repr

/-- `t` is `s` but for the listed parts: every other register, pixel and byte of memory, and all the model's own
fields, are those of `s`. -/
structure SameOutside (parts : List Part) (s t : State) : Prop where
  v : ∀ x, Part.v x ∉ parts → t.getV x = s.getV x
  i : Part.i ∉ parts → t.i = s.i
  pc : Part.pc ∉ parts → t.pc = s.pc
  stack : Part.stack ∉ parts → t.stack = s.stack
  dt : Part.dt ∉ parts → t.dt = s.dt
  st : Part.st ∉ parts → t.st = s.st
  pixel : ∀ c r, Part.screen ∉ parts → Part.pixel c r ∉ parts → t.fb.pixel c r = s.fb.pixel c r
  mode : Part.mode ∉ parts → t.mode = s.mode
  byte : ∀ a, Part.byte (memAddr a) ∉ parts → t.memRead a = s.memRead a
  loadOpen : t.loadOpen = s.loadOpen
  cfg : t.cfg = s.cfg
  key : t.key = s.key
  rand : t.rand = s.rand
  script : t.script = s.script
  drawn : t.drawn = s.drawn

/-- The state in which the instruction of an execute step runs: the request taken, KEY and RAND sampled, PC still at
the instruction (R54, R114). -/
def State.sampled (s : State) (key : Option Byte) (rand : Byte) : State := s.takeRequest.sample key rand

/-- V0 to Vx inclusive. -/
def vUpTo (x : Nibble) : List Nibble := (List.range (x.toNat + 1)).map (BitVec.ofNat 4)

/-- The registers an instruction reads (R14). Which one 8xy6 and 8xyE read is `SHIFT_SOURCE`. -/
def vReads (src : ShiftSource) : Instr → List Nibble
  | .seByte x _ | .sneByte x _ | .addByte x _ => [x]
  | .seReg x y | .sneReg x y => [x, y]
  | .ldReg _ y => [y]
  | .orReg x y | .andReg x y | .xorReg x y | .addReg x y | .subReg x y | .subn x y => [x, y]
  | .shr x y | .shl x y => match src with
    | .x => [x]
    | .y => [y]
  | .jpV0 _ => [0#4]
  | .drw x y _ => [x, y]
  | .skp x | .sknp x | .ldDTVx x | .ldSTVx x | .addI x | .ldF x | .ldB x => [x]
  | .stRegs x => vUpTo x
  | .sys _ | .cls | .ret | .jp _ | .call _ | .ldByte _ _ | .ldI _ | .rnd _ _ | .ldVxDT _ | .ldVxK _
  | .ldRegs _ => []

/-- The registers an instruction writes (R14), in the step that executes it: the Vx of Fx0A is written by the wait
step that ends the wait (R92). -/
def vWrites : Instr → List Nibble
  | .ldByte x _ | .addByte x _ | .ldReg x _ | .orReg x _ | .andReg x _ | .xorReg x _ | .rnd x _ | .ldVxDT x => [x]
  | .addReg x _ | .subReg x _ | .shr x _ | .subn x _ | .shl x _ => [x, regF]
  | .drw _ _ _ => [regF]
  | .ldRegs x => vUpTo x
  | .sys _ | .cls | .ret | .jp _ | .call _ | .seByte _ _ | .sneByte _ _ | .seReg _ _ | .sneReg _ _ | .ldI _ | .jpV0 _
  | .skp _ | .sknp _ | .ldVxK _ | .ldDTVx _ | .ldSTVx _ | .addI _ | .ldF _ | .ldB _ | .stRegs _ => []

/-- The instructions that write a flag into VF (R13, R81). -/
def writesFlag : Instr → Bool
  | .addReg _ _ | .subReg _ _ | .shr _ _ | .subn _ _ | .shl _ _ | .drw _ _ _ => true
  | .sys _ | .cls | .ret | .jp _ | .call _ | .seByte _ _ | .sneByte _ _ | .seReg _ _ | .ldByte _ _ | .addByte _ _
  | .ldReg _ _ | .orReg _ _ | .andReg _ _ | .xorReg _ _ | .sneReg _ _ | .ldI _ | .jpV0 _ | .rnd _ _ | .skp _ | .sknp _
  | .ldVxDT _ | .ldVxK _ | .ldDTVx _ | .ldSTVx _ | .addI _ | .ldF _ | .ldB _ | .stRegs _ | .ldRegs _ => false

/-- The instructions that write I (R16): Annn, Fx1E, Fx29, and the block transfers under `LOADSTORE_INC_I`. -/
def writesI (cfg : RunParams) : Instr → Bool
  | .ldI _ | .addI _ | .ldF _ => true
  | .stRegs _ | .ldRegs _ => cfg.loadStoreIncI
  | .sys _ | .cls | .ret | .jp _ | .call _ | .seByte _ _ | .sneByte _ _ | .seReg _ _ | .ldByte _ _ | .addByte _ _
  | .ldReg _ _ | .orReg _ _ | .andReg _ _ | .xorReg _ _ | .addReg _ _ | .subReg _ _ | .shr _ _ | .subn _ _ | .shl _ _
  | .sneReg _ _ | .jpV0 _ | .rnd _ _ | .drw _ _ _ | .skp _ | .sknp _ | .ldVxDT _ | .ldVxK _ | .ldDTVx _ | .ldSTVx _
  | .ldB _ => false

/-- The instructions that set PC to a target (R18). -/
def setsPC : Instr → Bool
  | .jp _ | .jpV0 _ | .call _ | .ret => true
  | .sys _ | .cls | .seByte _ _ | .sneByte _ _ | .seReg _ _ | .ldByte _ _ | .addByte _ _ | .ldReg _ _ | .orReg _ _
  | .andReg _ _ | .xorReg _ _ | .addReg _ _ | .subReg _ _ | .shr _ _ | .subn _ _ | .shl _ _ | .sneReg _ _ | .ldI _
  | .rnd _ _ | .drw _ _ _ | .skp _ | .sknp _ | .ldVxDT _ | .ldVxK _ | .ldDTVx _ | .ldSTVx _ | .addI _ | .ldF _
  | .ldB _ | .stRegs _ | .ldRegs _ => false

/-- Whether an instruction skips, in a state with KEY sampled: `none` for one that is no skip (R64 to R67, R89,
R90). -/
def skipCondition (s : State) : Instr → Option Prop
  | .seByte x kk => some (s.getV x = kk)
  | .sneByte x kk => some (s.getV x ≠ kk)
  | .seReg x y => some (s.getV x = s.getV y)
  | .sneReg x y => some (s.getV x ≠ s.getV y)
  | .skp x => some (s.key = some (s.getV x))
  | .sknp x => some (s.key ≠ some (s.getV x))
  | .sys _ | .cls | .ret | .jp _ | .call _ | .ldByte _ _ | .addByte _ _ | .ldReg _ _ | .orReg _ _ | .andReg _ _
  | .xorReg _ _ | .addReg _ _ | .subReg _ _ | .shr _ _ | .subn _ _ | .shl _ _ | .ldI _ | .jpV0 _ | .rnd _ _
  | .drw _ _ _ | .ldVxDT _ | .ldVxK _ | .ldDTVx _ | .ldSTVx _ | .addI _ | .ldF _ | .ldB _ | .stRegs _
  | .ldRegs _ => none

/-- The unknown words, as R51 lists them. -/
def UnknownWord (w : Word) : Prop :=
  (w.extractLsb' 12 4 = 0x5#4 ∧ w.extractLsb' 0 4 ≠ 0x0#4) ∨
  (w.extractLsb' 12 4 = 0x8#4 ∧ w.extractLsb' 0 4 ∈ [0x8#4, 0x9#4, 0xA#4, 0xB#4, 0xC#4, 0xD#4, 0xF#4]) ∨
  (w.extractLsb' 12 4 = 0x9#4 ∧ w.extractLsb' 0 4 ≠ 0x0#4) ∨
  (w.extractLsb' 12 4 = 0xE#4 ∧ w.extractLsb' 0 8 ∉ [0x9E#8, 0xA1#8]) ∨
  (w.extractLsb' 12 4 = 0xF#4 ∧
    w.extractLsb' 0 8 ∉ [0x07#8, 0x0A#8, 0x15#8, 0x18#8, 0x1E#8, 0x29#8, 0x33#8, 0x55#8, 0x65#8])

/-- When the execute step of the word `w` raises each fatal condition (R99). -/
def FatalWhen (s : State) (w : Word) : FatalCause → Prop
  | .unknownInstruction => UnknownWord w
  | .stackUnderflow => w = 0x00EE#16 ∧ s.stack = []
  | .stackOverflow => w.extractLsb' 12 4 = 0x2#4 ∧ s.cfg.stackDepth = some s.sp
  | .operandOutOfRange => False
  | .sysUnsupported =>
    w.extractLsb' 12 4 = 0x0#4 ∧ w ≠ 0x00E0#16 ∧ w ≠ 0x00EE#16 ∧ s.cfg.sysMode = .fault

/-- The pixels a sprite toggles (R87): column offset `j` and row offset `k` from the origin, wrapped, where bit
`7 - j` of the row byte at I + k is 1. -/
def SpriteCovers (s : State) (x y n : Nibble) (c : Column) (r : Row) : Prop :=
  ∃ k j : Nat, k < n.toNat ∧ j < 8 ∧ c.toNat = ((s.getV x).toNat % 64 + j) % 64 ∧
    r.toNat = ((s.getV y).toNat % 32 + k) % 32 ∧ (s.memRead (s.i.toNat + k)).getLsbD (7 - j) = true

/-- What the fetch in `t` reads after a step from `s` that stored `count` bytes at I on, `stored k` at offset k (R39):
the high byte comes from PC and the low byte from PC + 1, each the stored byte where the block lies over its address
(all addresses mod 4096, R28) and the byte of `s` where it does not. -/
def NextFetch (s t : State) (count : Nat) (stored : Nat → Byte) : Prop :=
  (∀ k, k < count → memAddr (s.i.toNat + k) = memAddr t.pc.toNat → t.fetchWord.extractLsb' 8 8 = stored k) ∧
  (∀ k, k < count → memAddr (s.i.toNat + k) = memAddr (t.pc.toNat + 1) → t.fetchWord.extractLsb' 0 8 = stored k) ∧
  ((∀ k, k < count → memAddr (s.i.toNat + k) ≠ memAddr t.pc.toNat) →
    t.fetchWord.extractLsb' 8 8 = s.memRead t.pc.toNat) ∧
  ((∀ k, k < count → memAddr (s.i.toNat + k) ≠ memAddr (t.pc.toNat + 1)) →
    t.fetchWord.extractLsb' 0 8 = s.memRead (t.pc.toNat + 1))

/-- What every step keeps: memory in its canonical form (R27), the stack within its depth (R19), a fault record that
names the condition the halted state still shows (R99 to R102), and no loader write once the core has executed
(R41). -/
structure Inv (s : State) : Prop where
  memory : s.mem.wf = true
  stackBound : ∀ d, s.cfg.stackDepth = some d → s.sp ≤ d
  record : ∀ f, s.mode = .halted f → s.pc = f.pc + 2#16 ∧ FatalWhen s f.word f.cause
  window : s.mode ≠ .running → s.loadOpen = false

/-! Runs and their outcomes (R124), and what a claim that a run ends may assume of the host (R108, R129). -/

/-- The customary stop idiom (R124): Running, and the word at PC jumps to itself. -/
def State.selfJump (s : State) : Prop :=
  s.mode = .running ∧ ∃ nnn, decode s.fetchWord = .instr (.jp nnn) ∧ nnn.setWidth 16 = s.pc

/-- A state at which a run ends (R124): the self-jump or, when the launch names an `END_PC`, Running with PC there
instead. -/
def State.atEnd (s : State) : Prop :=
  match s.cfg.endPc with
  | none => s.selfJump
  | some a => s.mode = .running ∧ s.pc = a

/-- A faulted state: never a normal end (R101, R124). -/
def State.faulted (s : State) : Prop := ∃ f, s.mode = .halted f

/-- A state that decides a run: it ends there or has faulted. -/
def State.over (s : State) : Prop := s.atEnd ∨ s.faulted

/-- `s` with `q` as the request the next step takes. -/
def State.asks (s : State) (q : HostRequest) : State := { s with script := q :: s.script }

/-- `r` is the infinite run under the requests of `host`: each request, an execute step or a tick in any order (R108),
takes one state to the next. Loader writes come before a run, and a reset begins another (R120, R121, R123; log 25). -/
def IsRun (host : Nat → HostRequest) (r : Nat → State) : Prop :=
  ∀ n, ((∃ key rand, host n = .execute key rand) ∨ host n = .tick) ∧ step ((r n).asks (host n)) = .next (r (n + 1))

/-- The run ends at its `n`-th state: the first at which a run ends (R124). It says nothing of the states after, nor
that the hardware stops. -/
def EndsAt (r : Nat → State) (n : Nat) : Prop := (r n).atEnd ∧ ∀ m, m < n → ¬(r m).over

/-- The outcome Faulted (R124): the run halts at its `n`-th state and did not end before. -/
def FaultsAt (r : Nat → State) (n : Nat) : Prop := (r n).faulted ∧ ∀ m, m < n → ¬(r m).over

/-- The outcome Hang (R124): an infinite run that never ends, and does not fault (log 25). -/
def Hangs (r : Nat → State) : Prop := ∀ n, ¬(r n).over

/-- Weak fairness of ticks (R108): in a run in which the core is not halted, infinitely many of the requests are ticks.
An assumption of a claim, never of the machine. -/
def FairTicks (host : Nat → HostRequest) (r : Nat → State) : Prop :=
  (∀ n, ¬(r n).faulted) → ∀ n, ∃ m, n ≤ m ∧ host m = .tick

/-- The host keeps requesting execute steps as long as the run has not ended and the core is not halted (R129). An
assumption of a claim, never of the machine. -/
def FairExecutes (host : Nat → HostRequest) (r : Nat → State) : Prop :=
  ∀ n, (∀ m, m ≤ n → ¬(r m).over) → ∃ m key rand, n ≤ m ∧ host m = .execute key rand

/-- From the `n`-th request on the host eventually supplies a key (R129). An assumption of a claim that rests on a key
press. -/
def KeyComes (host : Nat → HostRequest) (n : Nat) : Prop := ∃ m k rand, n ≤ m ∧ host m = .execute (some k) rand

/-- Whenever the core waits for a key, the host eventually supplies one (R91, R129). An assumption of a claim, never of
the machine. -/
def KeySupplied (host : Nat → HostRequest) (r : Nat → State) : Prop :=
  ∀ n x, (r n).mode = .awaitingKey x → KeyComes host n

end Sys2Proof.Machine
end

