-- ==== Sys2Proof/Certificates/Slice0/Obligations.lean ====
section
/-! DEFINITION. The statements for the provers, one `def Obligations.<Name> : Prop` each; OBLIGATIONS.json says what
each formalises. A statement about `exec` speaks of the step's inside: PC already holds `trunc_16(A + 2)` (R54). -/

open Sys2Proof Sys2Proof.Machine

/-! Encoding and decoding -/

/-- R45, R46, R49, R50: no bit of an encoding is dropped: decoding the word, and the bytes in memory order, of every
well-formed instruction gives it back, every operand at every value. -/
def Obligations.DecodingAnEncodingGivesItBack : Prop :=
  ∀ i : Instr, wellFormed i = true →
    decode (encode i) = .instr i ∧ ∀ rest, decodeBytes (encodeBytes i ++ rest) = .ok (i, rest)

/-- R49 to R52: a word that decodes is the encoding of what it decodes to, which is well-formed. -/
def Obligations.EncodingADecodingGivesItBack : Prop :=
  ∀ (w : Word) (i : Instr), decode w = .instr i → encode i = w ∧ wellFormed i = true

/-- R49, R50: a word decodes to an instruction of the one row whose mask and match it meets, and every word that meets
a row, but for 00E0 and 00EE against 0nnn, decodes to that row. -/
def Obligations.DecodingFollowsTheOpcodeMap : Prop :=
  (∀ (w : Word) (i : Instr), decode w = .instr i → w &&& opcodeMask i = opcodeMatch i) ∧
  ∀ (w : Word) (i : Instr), w &&& opcodeMask i = opcodeMatch i →
    (opcodeMatch i = 0x0000#16 → w ≠ 0x00E0#16 ∧ w ≠ 0x00EE#16) →
    ∃ j, decode w = .instr j ∧ opcodeMatch j = opcodeMatch i ∧ opcodeMask j = opcodeMask i

/-- R50: CLS and RET take their words from SYS, every other word of family 0 is SYS with its low 12 bits, and no other
two rows match one word. -/
def Obligations.OnlyTheSystemRowsOverlap : Prop :=
  decode 0x00E0#16 = .instr .cls ∧ decode 0x00EE#16 = .instr .ret ∧
  (∀ w : Word, w.extractLsb' 12 4 = 0x0#4 → w ≠ 0x00E0#16 → w ≠ 0x00EE#16 →
    decode w = .instr (.sys (w.extractLsb' 0 12))) ∧
  ∀ (w : Word) (i j : Instr), w &&& opcodeMask i = opcodeMatch i → w &&& opcodeMask j = opcodeMatch j →
    opcodeMatch i = opcodeMatch j ∨
      (w = 0x00E0#16 ∨ w = 0x00EE#16) ∧ (opcodeMatch i = 0x0000#16 ∨ opcodeMatch j = 0x0000#16)

/-- R51, R52: decoding is total; the unknown words are exactly those R51 lists, each tagged with itself; and an execute
step of one raises UnknownInstruction with its address and word. -/
def Obligations.UnknownWordsAreExactlyTheListed : Prop :=
  (∀ w : Word, decode w = .unknown w ↔ UnknownWord w) ∧
  (∀ w : Word, decode w = .unknown w ∨ ∃ i, decode w = .instr i) ∧
  ∀ (s : State) (key : Option Byte) (rand : Byte), s.nextRequest = .execute key rand → s.mode = .running →
    UnknownWord s.fetchWord →
    ∃ t, step s = .next t ∧
      t.mode = .halted { cause := .unknownInstruction, pc := s.pc, word := s.fetchWord }

/-- Words written out from the formats of R45 and R46 and the examples of 95_test_vectors.md decode to what they
stand for, one or more of each family, and a neighbour of a fixed nibble decodes to nothing. -/
def Obligations.SpelledWordsDecode : Prop :=
  decode 0x60AB#16 = .instr (.ldByte 0x0#4 0xAB#8) ∧ decode 0x2220#16 = .instr (.call 0x220#12) ∧
  decode 0x00EE#16 = .instr .ret ∧ decode 0x00E0#16 = .instr .cls ∧ decode 0x0123#16 = .instr (.sys 0x123#12) ∧
  decode 0x1234#16 = .instr (.jp 0x234#12) ∧ decode 0x3310#16 = .instr (.seByte 0x3#4 0x10#8) ∧
  decode 0x4310#16 = .instr (.sneByte 0x3#4 0x10#8) ∧ decode 0x5120#16 = .instr (.seReg 0x1#4 0x2#4) ∧
  decode 0x7103#16 = .instr (.addByte 0x1#4 0x03#8) ∧ decode 0x8127#16 = .instr (.subn 0x1#4 0x2#4) ∧
  decode 0x9120#16 = .instr (.sneReg 0x1#4 0x2#4) ∧ decode 0xA2F0#16 = .instr (.ldI 0x2F0#12) ∧
  decode 0xB300#16 = .instr (.jpV0 0x300#12) ∧ decode 0xC10F#16 = .instr (.rnd 0x1#4 0x0F#8) ∧
  decode 0xD015#16 = .instr (.drw 0x0#4 0x1#4 0x5#4) ∧ decode 0xE19E#16 = .instr (.skp 0x1#4) ∧
  decode 0xF265#16 = .instr (.ldRegs 0x2#4) ∧ decode 0x5121#16 = .unknown 0x5121#16

/-! The execute step, the other steps and the fatal conditions -/

/-- R54: an execute step in mode Running fetches at PC, advances PC by 2 whatever the word, and executes the decoded
instruction, or raises UnknownInstruction. What the model adds around `exec` is the request taken and KEY and RAND
sampled (`State.sampled`). -/
def Obligations.StepRunsTheDecodedInstruction : Prop :=
  ∀ (s : State) (key : Option Byte) (rand : Byte), s.nextRequest = .execute key rand → s.mode = .running →
    (∀ i, decode s.fetchWord = .instr i → step s = exec i ((s.sampled key rand).setPC (s.pc + 2#16))) ∧
    ∀ w, decode s.fetchWord = .unknown w → ∃ t, step s = .next t ∧ t.pc = s.pc + 2#16 ∧
      t.mode = .halted { cause := .unknownInstruction, pc := s.pc, word := w } ∧
      SameOutside [.pc, .mode] (s.sampled key rand) t

/-- R28, R30, R32, R43: the word is the byte at PC mod 4096 above the byte at PC + 1 mod 4096, at any PC, odd or even;
at 0xFFF the low byte comes from 0x000. -/
def Obligations.FetchIsBigEndianAndWraps : Prop :=
  ∀ s : State,
    s.fetchWord.toNat = 256 * (s.mem.lookup (s.pc.toNat % 4096)).toNat + (s.mem.lookup ((s.pc.toNat + 1) % 4096)).toNat ∧
    (s.pc.toNat % 4096 = 0xFFF → s.fetchWord.extractLsb' 0 8 = s.mem.lookup 0)

/-- R99, R104: an execute step in mode Running raises a fatal condition exactly when R99 says so, with A and W in the
record; no other cause is ever recorded; and the codes are those of R99. -/
def Obligations.FatalConditionsAreExactlyTheListed : Prop :=
  (causeCode .unknownInstruction = 1#3 ∧ causeCode .stackUnderflow = 2#3 ∧ causeCode .stackOverflow = 3#3 ∧
    causeCode .operandOutOfRange = 4#3 ∧ causeCode .sysUnsupported = 5#3) ∧
  ∀ (s : State) (key : Option Byte) (rand : Byte), s.nextRequest = .execute key rand → s.mode = .running →
    ∃ t, step s = .next t ∧
      (∀ c, t.mode = .halted { cause := c, pc := s.pc, word := s.fetchWord } ↔ FatalWhen s s.fetchWord c) ∧
      ∀ f, t.mode = .halted f → f.pc = s.pc ∧ f.word = s.fetchWord

/-- R102: a step that halts the core has advanced PC and changed nothing else. -/
def Obligations.FatalConditionsArePrecise : Prop :=
  ∀ (s t : State) (key : Option Byte) (rand : Byte) (f : FaultRecord), s.nextRequest = .execute key rand →
    s.mode = .running → step s = .next t → t.mode = .halted f →
    t.pc = s.pc + 2#16 ∧ SameOutside [.pc, .mode] (s.sampled key rand) t

/-- R101: in Halted an execute or a tick request changes nothing, and no request but a reset leaves Halted or changes
the fault record or, once the core has executed (`Inv.window`), any state at all. -/
def Obligations.HaltedIsAbsorbing : Prop :=
  ∀ (s : State) (f : FaultRecord), s.mode = .halted f →
    (∀ key rand, s.nextRequest = .execute key rand → step s = .next s.takeRequest) ∧
    (s.nextRequest = .tick → step s = .next s.takeRequest) ∧
    ∀ t, step s = .next t → s.nextRequest ≠ .reset →
      t.mode = .halted f ∧ (s.loadOpen = false → t = s.takeRequest)

/-- R92: an execute step in AwaitingKey loads a present key into Vx and runs again, and with no key changes nothing;
PC does not change either way; ticks go on while the core waits and do not end the wait. -/
def Obligations.WaitStepTakesAKey : Prop :=
  (∀ (s : State) (key : Option Byte) (rand : Byte) (x : Nibble), s.nextRequest = .execute key rand →
    s.mode = .awaitingKey x →
    ∃ t, step s = .next t ∧
      (∀ k, key = some k → t.getV x = k ∧ t.mode = .running ∧ SameOutside [.v x, .mode] (s.sampled key rand) t) ∧
      (key = none → t = s.sampled key rand)) ∧
  ∀ (s : State) (x : Nibble), s.nextRequest = .tick → s.mode = .awaitingKey x →
    ∃ t, step s = .next t ∧ t.mode = .awaitingKey x ∧ t.dt.toNat = s.dt.toNat - 1 ∧ t.st.toNat = s.st.toNat - 1

/-- R107: a tick in Running or AwaitingKey counts both timers down by 1 with a floor of 0, and changes nothing else; and
no other step changes a timer but a reset and the execute step of Fx15 or Fx18. -/
def Obligations.TickCountsBothTimersDown : Prop :=
  (∀ s : State, s.nextRequest = .tick → (∀ f, s.mode ≠ .halted f) →
    ∃ t, step s = .next t ∧ t.dt.toNat = s.dt.toNat - 1 ∧ t.st.toNat = s.st.toNat - 1 ∧
      SameOutside [.dt, .st] s.takeRequest t) ∧
  ∀ s t : State, step s = .next t → t.dt ≠ s.dt ∨ t.st ≠ s.st →
    s.nextRequest = .tick ∨ s.nextRequest = .reset ∨
      ∃ key rand x, s.nextRequest = .execute key rand ∧ s.mode = .running ∧
        (decode s.fetchWord = .instr (.ldDTVx x) ∨ decode s.fetchWord = .instr (.ldSTVx x))

/-- R22, R107: n ticks in a row count each timer down by n with a floor of 0, so as many ticks as a timer holds bring
it to 0. -/
def Obligations.TicksCountTimersDownToZero : Prop :=
  ∀ (n : Nat) (s : State) (rest : List HostRequest), s.script = List.replicate n .tick ++ rest →
    (∀ f, s.mode ≠ .halted f) →
    ∃ t, Host.Core.run Sys2Proof.core n s = .next t ∧ t.dt.toNat = s.dt.toNat - n ∧ t.st.toNat = s.st.toNat - n ∧
      SameOutside [.dt, .st] { s with script := rest } t

/-- R120: a reset, in any mode, sets every piece of state to its reset value; and loader writes are accepted again
(R41, R114; that the window is a field is the model's, log 11). -/
def Obligations.ResetRequestRestoresEverything : Prop :=
  ∀ s : State, s.nextRequest = .reset →
    ∃ t, step s = .next t ∧ (∀ x, t.getV x = 0#8) ∧ t.i = 0#16 ∧ t.pc = s.cfg.loadAddr.setWidth 16 ∧ t.stack = [] ∧
      t.sp = 0 ∧ t.dt = 0#8 ∧ t.st = 0#8 ∧ (∀ c r, t.fb.pixel c r = false) ∧ t.mode = .running ∧
      (∀ a, t.memRead a = 0#8) ∧ t.loadOpen = true

/-- R120, under the spec's default of `LOAD_ADDR` (log 4): the machine right after reset, with loader writes accepted
(R41, R114; the field is the model's, log 11). -/
def Obligations.ResetLeavesTheStatedValues : Prop :=
  let s := State.reset
  (∀ x, s.getV x = 0#8) ∧ s.i = 0#16 ∧ s.pc = 0x200#16 ∧ s.stack = [] ∧ s.sp = 0 ∧ s.dt = 0#8 ∧ s.st = 0#8 ∧
    (∀ c r, s.fb.pixel c r = false) ∧ s.mode = .running ∧ (∀ a, s.memRead a = 0#8) ∧ s.loadOpen = true

/-- R41, R114, log 8, log 11 (the model's choice): before the first execute step after reset a loader write stores
its byte; an execute step in a mode that has one ends that; afterwards the model refuses a loader write. -/
def Obligations.LoaderWritesOnlyBeforeTheFirstStep : Prop :=
  (∀ (s : State) (a : Addr) (d : Byte), s.nextRequest = .load a d → s.loadOpen = true →
    ∃ t, step s = .next t ∧ t.memRead a.toNat = d ∧ SameOutside [.byte a.toNat] s.takeRequest t) ∧
  (∀ (s : State) (key : Option Byte) (rand : Byte), s.nextRequest = .execute key rand → (∀ f, s.mode ≠ .halted f) →
    ∃ t, step s = .next t ∧ t.loadOpen = false) ∧
  ∀ (s : State) (a : Addr) (d : Byte), s.nextRequest = .load a d → s.loadOpen = false →
    step s = .refused .loadAfterFirstStep

/-- R121: the boot writes in order leave the program at LOAD_ADDR, the font at FONT_BASE where the program does not
lie over it, and every other byte as it was; nothing but memory changes. -/
def Obligations.BootLoadsFontAndProgram : Prop :=
  ∀ (s : State) (program : List Byte) (rest : List HostRequest), s.loadOpen = true →
    s.cfg.loadAddr.toNat + program.length ≤ 4096 → s.script = bootScript s.cfg program ++ rest →
    ∃ t, Host.Core.run Sys2Proof.core (bootScript s.cfg program).length s = .next t ∧
      (∀ (k : Nat) (h : k < program.length), t.memRead (s.cfg.loadAddr.toNat + k) = program[k]) ∧
      (∀ (k : Nat) (h : k < 80),
        (∀ j, j < program.length → s.cfg.loadAddr.toNat + j ≠ memAddr (s.cfg.fontBase.toNat + k)) →
        t.memRead (s.cfg.fontBase.toNat + k) = s.cfg.fontData[k]) ∧
      SameOutside
        ((List.range 80).map (fun k => .byte (memAddr (s.cfg.fontBase.toNat + k))) ++
          (List.range program.length).map (fun k => .byte (s.cfg.loadAddr.toNat + k)))
        { s with script := rest } t

/-- R28, R99 (and log 7, log 8): a step answers a next state, whatever the state, unless the host writes memory
after the first execute step; no instruction ever stops the model. -/
def Obligations.OnlyALateLoadStopsTheModel : Prop :=
  (∀ (i : Instr) (s : State), ∃ t, exec i s = .next t) ∧
  ∀ s : State, (∃ t, step s = .next t) ∨
    (step s = .refused .loadAfterFirstStep ∧ s.loadOpen = false ∧ ∃ a d, s.nextRequest = .load a d)

/-- R124: a state in which the word at PC jumps to itself repeats itself under execute steps; and in every run, from
the first such state on, every state is one and only DT, ST and the model's own fields (logs 10, 11) have changed. -/
def Obligations.SelfJumpRepeatsItself : Prop :=
  (∀ (s : State) (key : Option Byte) (rand : Byte), s.nextRequest = .execute key rand → s.selfJump →
    ∃ t, step s = .next t ∧ SameOutside [] (s.sampled key rand) t ∧ t.selfJump) ∧
  ∀ (host : Nat → HostRequest) (r : Nat → State) (n m : Nat), IsRun host r → n ≤ m → (r n).selfJump →
    (r m).selfJump ∧ ∃ key rand isOpen,
      SameOutside [.dt, .st] { r n with key := key, rand := rand, loadOpen := isOpen } (r m)

/-! Control transfer -/

/-- R59. -/
def Obligations.JumpSetsPC : Prop :=
  (∀ nnn : Addr, decode (0x1#4 ++ nnn) = .instr (.jp nnn)) ∧
  ∀ (nnn : Addr) (s : State), ∃ t, exec (.jp nnn) s = .next t ∧ t.pc.toNat = nnn.toNat ∧ SameOutside [.pc] s t

/-- R60: the sum is not reduced mod 4096, and never wraps. -/
def Obligations.JumpWithOffsetAddsV0 : Prop :=
  (∀ nnn : Addr, decode (0xB#4 ++ nnn) = .instr (.jpV0 nnn)) ∧
  ∀ (nnn : Addr) (s : State), ∃ t, exec (.jpV0 nnn) s = .next t ∧ t.pc.toNat = nnn.toNat + (s.getV 0#4).toNat ∧
    SameOutside [.pc] s t

/-- R61, R21: CALL pushes the post-fetch PC whole and jumps, or on a full stack halts with nothing pushed. The address
A of the record is the one for which PC holds A + 2. -/
def Obligations.CallPushesAndJumps : Prop :=
  (∀ nnn : Addr, decode (0x2#4 ++ nnn) = .instr (.call nnn)) ∧
  (∀ (nnn : Addr) (s : State), s.cfg.stackDepth ≠ some s.sp →
    ∃ t, exec (.call nnn) s = .next t ∧ t.pc.toNat = nnn.toNat ∧ t.stack = s.stack ++ [s.pc] ∧ t.sp = s.sp + 1 ∧
      SameOutside [.pc, .stack] s t) ∧
  ∀ (nnn : Addr) (s : State), s.cfg.stackDepth = some s.sp →
    ∃ t, exec (.call nnn) s = .next t ∧
      (∀ a, s.pc = a + 2#16 → t.mode = .halted { cause := .stackOverflow, pc := a, word := 0x2#4 ++ nnn }) ∧
      SameOutside [.mode] s t

/-- R62, R21: RET takes the top entry into PC, or on an empty stack halts. -/
def Obligations.ReturnPopsIntoPC : Prop :=
  decode 0x00EE#16 = .instr .ret ∧
  (∀ (s : State) (below : List Word) (w : Word), s.stack = below ++ [w] →
    ∃ t, exec .ret s = .next t ∧ t.pc = w ∧ t.stack = below ∧ t.sp + 1 = s.sp ∧ SameOutside [.pc, .stack] s t) ∧
  ∀ s : State, s.stack = [] →
    ∃ t, exec .ret s = .next t ∧
      (∀ a, s.pc = a + 2#16 → t.mode = .halted { cause := .stackUnderflow, pc := a, word := 0x00EE#16 }) ∧
      SameOutside [.mode] s t

/-- R63: SYS halts under SYS_MODE = fault and has no effect under nop. -/
def Obligations.SysFaultsOrDoesNothing : Prop :=
  (∀ nnn : Addr, nnn ≠ 0x0E0#12 → nnn ≠ 0x0EE#12 → decode (0x0#4 ++ nnn) = .instr (.sys nnn)) ∧
  ∀ (nnn : Addr) (s : State), ∃ t, exec (.sys nnn) s = .next t ∧
    (s.cfg.sysMode = .fault →
      (∀ a, s.pc = a + 2#16 → t.mode = .halted { cause := .sysUnsupported, pc := a, word := 0x0#4 ++ nnn }) ∧
        SameOutside [.mode] s t) ∧
    (s.cfg.sysMode = .nop → SameOutside [] s t)

/-- 95 L1-7 (R61, R62): a call of an address that holds 00EE, followed by that return, is back after the call, with
the stack and everything else as before. -/
def Obligations.CallThenReturnComesBack : Prop :=
  ∀ (s : State) (nnn : Addr) (k1 k2 : Option Byte) (r1 r2 : Byte) (rest : List HostRequest),
    s.script = .execute k1 r1 :: .execute k2 r2 :: rest → s.mode = .running → s.fetchWord = 0x2#4 ++ nnn →
    s.cfg.stackDepth ≠ some s.sp → s.memRead nnn.toNat = 0x00#8 → s.memRead (nnn.toNat + 1) = 0xEE#8 →
    ∃ t, Host.Core.run Sys2Proof.core 2 s = .next t ∧ t.pc = s.pc + 2#16 ∧
      SameOutside [.pc] ({ s with script := rest }.sample k2 r2) t

/-! Skips -/

/-- R64 to R67: the four register skips move PC by 2 exactly on their condition and change nothing else. -/
def Obligations.RegisterSkipsFollowTheirCondition : Prop :=
  (∀ (x : Nibble) (kk : Byte), decode (0x3#4 ++ x ++ kk) = .instr (.seByte x kk)) ∧
  (∀ (x : Nibble) (kk : Byte), decode (0x4#4 ++ x ++ kk) = .instr (.sneByte x kk)) ∧
  (∀ x y : Nibble, decode (0x5#4 ++ x ++ y ++ 0x0#4) = .instr (.seReg x y)) ∧
  (∀ x y : Nibble, decode (0x9#4 ++ x ++ y ++ 0x0#4) = .instr (.sneReg x y)) ∧
  ∀ (x y : Nibble) (kk : Byte) (s : State),
    (∃ t, exec (.seByte x kk) s = .next t ∧ t.pc = (if s.getV x = kk then s.pc + 2#16 else s.pc) ∧
      SameOutside [.pc] s t) ∧
    (∃ t, exec (.sneByte x kk) s = .next t ∧ t.pc = (if s.getV x = kk then s.pc else s.pc + 2#16) ∧
      SameOutside [.pc] s t) ∧
    (∃ t, exec (.seReg x y) s = .next t ∧ t.pc = (if s.getV x = s.getV y then s.pc + 2#16 else s.pc) ∧
      SameOutside [.pc] s t) ∧
    (∃ t, exec (.sneReg x y) s = .next t ∧ t.pc = (if s.getV x = s.getV y then s.pc else s.pc + 2#16) ∧
      SameOutside [.pc] s t)

/-- R89, R90, R110: SKP skips exactly when KEY is the byte in Vx, SKNP exactly when SKP does not, with no key too. -/
def Obligations.KeySkipsFollowTheKey : Prop :=
  (∀ x : Nibble, decode (0xE#4 ++ x ++ 0x9E#8) = .instr (.skp x)) ∧
  (∀ x : Nibble, decode (0xE#4 ++ x ++ 0xA1#8) = .instr (.sknp x)) ∧
  ∀ (x : Nibble) (s : State),
    (∃ t, exec (.skp x) s = .next t ∧ t.pc = (if s.key = some (s.getV x) then s.pc + 2#16 else s.pc) ∧
      SameOutside [.pc] s t) ∧
    (∃ t, exec (.sknp x) s = .next t ∧ t.pc = (if s.key = some (s.getV x) then s.pc else s.pc + 2#16) ∧
      SameOutside [.pc] s t)

/-- R56: an execute step of any of the six skips leaves PC at A + 4 when its condition holds and at A + 2 when not,
whatever the skipped word is, and changes nothing else. -/
def Obligations.ATakenSkipLandsFourPast : Prop :=
  ∀ (s : State) (key : Option Byte) (rand : Byte) (i : Instr) (p : Prop), s.nextRequest = .execute key rand →
    s.mode = .running → decode s.fetchWord = .instr i → skipCondition (s.sampled key rand) i = some p →
    ∃ t, step s = .next t ∧ (p → t.pc = s.pc + 4#16) ∧ (¬p → t.pc = s.pc + 2#16) ∧
      SameOutside [.pc] (s.sampled key rand) t

/-! Immediates and the register ALU -/

/-- R68. -/
def Obligations.LoadByteWritesVx : Prop :=
  (∀ (x : Nibble) (kk : Byte), decode (0x6#4 ++ x ++ kk) = .instr (.ldByte x kk)) ∧
  ∀ (x : Nibble) (kk : Byte) (s : State), ∃ t, exec (.ldByte x kk) s = .next t ∧ t.getV x = kk ∧
    SameOutside [.v x] s t

/-- R69: the sum mod 256; VF is written only as data, when x = F. -/
def Obligations.AddByteWrapsWithoutAFlag : Prop :=
  (∀ (x : Nibble) (kk : Byte), decode (0x7#4 ++ x ++ kk) = .instr (.addByte x kk)) ∧
  ∀ (x : Nibble) (kk : Byte) (s : State), ∃ t, exec (.addByte x kk) s = .next t ∧
    (t.getV x).toNat = ((s.getV x).toNat + kk.toNat) % 256 ∧ SameOutside [.v x] s t

/-- R72 to R75: assign, OR, AND, XOR write Vx and nothing else, VF included unless x = F. -/
def Obligations.AssignAndLogicWriteVxAlone : Prop :=
  (∀ x y : Nibble, decode (0x8#4 ++ x ++ y ++ 0x0#4) = .instr (.ldReg x y)) ∧
  (∀ x y : Nibble, decode (0x8#4 ++ x ++ y ++ 0x1#4) = .instr (.orReg x y)) ∧
  (∀ x y : Nibble, decode (0x8#4 ++ x ++ y ++ 0x2#4) = .instr (.andReg x y)) ∧
  (∀ x y : Nibble, decode (0x8#4 ++ x ++ y ++ 0x3#4) = .instr (.xorReg x y)) ∧
  ∀ (x y : Nibble) (s : State),
    (∃ t, exec (.ldReg x y) s = .next t ∧ t.getV x = s.getV y ∧ SameOutside [.v x] s t) ∧
    (∃ t, exec (.orReg x y) s = .next t ∧ t.getV x = s.getV x ||| s.getV y ∧ SameOutside [.v x] s t) ∧
    (∃ t, exec (.andReg x y) s = .next t ∧ t.getV x = s.getV x &&& s.getV y ∧ SameOutside [.v x] s t) ∧
    (∃ t, exec (.xorReg x y) s = .next t ∧ t.getV x = s.getV x ^^^ s.getV y ∧ SameOutside [.v x] s t)

/-- R76, R71: the sum mod 256 in Vx, then VF = 1 iff the sum exceeds 255, both from the values before the
instruction; with x = F the flag stands. -/
def Obligations.AddRegistersSetsCarry : Prop :=
  (∀ x y : Nibble, decode (0x8#4 ++ x ++ y ++ 0x4#4) = .instr (.addReg x y)) ∧
  ∀ (x y : Nibble) (s : State), ∃ t, exec (.addReg x y) s = .next t ∧
    (x ≠ 0xF#4 → (t.getV x).toNat = ((s.getV x).toNat + (s.getV y).toNat) % 256) ∧
    t.getV 0xF#4 = (if 255 < (s.getV x).toNat + (s.getV y).toNat then 0x01#8 else 0x00#8) ∧
    SameOutside [.v x, .v 0xF#4] s t

/-- R77, R79: a difference mod 256 in Vx, then VF = 1 iff there is no borrow, both from the values before the
instruction; SUBN swaps the operands; with x = F the flag stands. -/
def Obligations.SubtractionsSetNotBorrow : Prop :=
  (∀ x y : Nibble, decode (0x8#4 ++ x ++ y ++ 0x5#4) = .instr (.subReg x y)) ∧
  (∀ x y : Nibble, decode (0x8#4 ++ x ++ y ++ 0x7#4) = .instr (.subn x y)) ∧
  (∀ (x y : Nibble) (s : State), ∃ t, exec (.subReg x y) s = .next t ∧
    (x ≠ 0xF#4 → (t.getV x).toNat = ((s.getV x).toNat + 256 - (s.getV y).toNat) % 256) ∧
    t.getV 0xF#4 = (if (s.getV y).toNat ≤ (s.getV x).toNat then 0x01#8 else 0x00#8) ∧
    SameOutside [.v x, .v 0xF#4] s t) ∧
  ∀ (x y : Nibble) (s : State), ∃ t, exec (.subn x y) s = .next t ∧
    (x ≠ 0xF#4 → (t.getV x).toNat = ((s.getV y).toNat + 256 - (s.getV x).toNat) % 256) ∧
    t.getV 0xF#4 = (if (s.getV x).toNat ≤ (s.getV y).toNat then 0x01#8 else 0x00#8) ∧
    SameOutside [.v x, .v 0xF#4] s t

/-- R78, R80: the source, by SHIFT_SOURCE, halved into Vx with its bit 0 into VF, or doubled mod 256 into Vx with its
bit 7 into VF; the flag is written last. -/
def Obligations.ShiftsMoveOneBitIntoVF : Prop :=
  (∀ x y : Nibble, decode (0x8#4 ++ x ++ y ++ 0x6#4) = .instr (.shr x y)) ∧
  (∀ x y : Nibble, decode (0x8#4 ++ x ++ y ++ 0xE#4) = .instr (.shl x y)) ∧
  ∀ (x y : Nibble) (s : State) (v : Byte),
    v = (match s.cfg.shiftSource with
      | .x => s.getV x
      | .y => s.getV y) →
    (∃ t, exec (.shr x y) s = .next t ∧ (x ≠ 0xF#4 → (t.getV x).toNat = v.toNat / 2) ∧
      (t.getV 0xF#4).toNat = v.toNat % 2 ∧ SameOutside [.v x, .v 0xF#4] s t) ∧
    ∃ t, exec (.shl x y) s = .next t ∧ (x ≠ 0xF#4 → (t.getV x).toNat = v.toNat * 2 % 256) ∧
      (t.getV 0xF#4).toNat = v.toNat / 128 ∧ SameOutside [.v x, .v 0xF#4] s t

/-- R81: a flag is 0x00 or 0x01, whatever the instruction, its registers and the state. -/
def Obligations.FlagsAreZeroOrOne : Prop :=
  ∀ (i : Instr) (s t : State), writesFlag i = true → exec i s = .next t →
    t.getV 0xF#4 = 0x00#8 ∨ t.getV 0xF#4 = 0x01#8

/-- R13: VF is changed only by the flag writers and by an instruction that names it as a destination (6Fkk, 7Fkk, 8Fy0
to 8Fy3, CFkk, FF07, FF65), by the wait step of FF0A, and by a reset. -/
def Obligations.OnlyListedInstructionsWriteVF : Prop :=
  (∀ (i : Instr) (s t : State), exec i s = .next t → t.getV 0xF#4 ≠ s.getV 0xF#4 →
    writesFlag i = true ∨ (∃ kk, i = .ldByte 0xF#4 kk ∨ i = .addByte 0xF#4 kk ∨ i = .rnd 0xF#4 kk) ∨
      (∃ y, i = .ldReg 0xF#4 y ∨ i = .orReg 0xF#4 y ∨ i = .andReg 0xF#4 y ∨ i = .xorReg 0xF#4 y) ∨
      i = .ldVxDT 0xF#4 ∨ i = .ldRegs 0xF#4) ∧
  ∀ s t : State, step s = .next t → t.getV 0xF#4 ≠ s.getV 0xF#4 →
    s.nextRequest = .reset ∨ ∃ key rand, s.nextRequest = .execute key rand ∧
      (s.mode = .awaitingKey 0xF#4 ∨
        s.mode = .running ∧ ∃ i, decode s.fetchWord = .instr i ∧ 0xF#4 ∈ vWrites i)

/-- R14: each instruction writes only the registers the table lists (the Vx of Fx0A in the wait step), and what it
writes, and everything else it does, depends on no register but those the table lists as read: two states that differ
only in other registers give the same. -/
def Obligations.RegisterAccessIsTheListed : Prop :=
  (∀ (i : Instr) (s t : State), exec i s = .next t → ∀ r, r ∉ vWrites i → t.getV r = s.getV r) ∧
  (∀ (s t : State) (key : Option Byte) (rand : Byte) (x : Nibble), s.nextRequest = .execute key rand →
    s.mode = .awaitingKey x → step s = .next t → ∀ r, r ≠ x → t.getV r = s.getV r) ∧
  ∀ (i : Instr) (s t t' : State) (v' : Vector Byte 16),
    (∀ r, r ∈ vReads s.cfg.shiftSource i → ({ s with v := v' } : State).getV r = s.getV r) →
    exec i s = .next t → exec i { s with v := v' } = .next t' →
    (∀ r, r ∈ vWrites i → t'.getV r = t.getV r) ∧ { t' with v := t.v } = t

/-! The index register, the random byte, the display -/

/-- R82, R83, R84: I is loaded, added to mod 65536 with no flag, and pointed at the glyph of Vx's low nibble. -/
def Obligations.IndexInstructionsWriteI : Prop :=
  (∀ nnn : Addr, decode (0xA#4 ++ nnn) = .instr (.ldI nnn)) ∧
  (∀ x : Nibble, decode (0xF#4 ++ x ++ 0x1E#8) = .instr (.addI x)) ∧
  (∀ x : Nibble, decode (0xF#4 ++ x ++ 0x29#8) = .instr (.ldF x)) ∧
  (∀ (nnn : Addr) (s : State), ∃ t, exec (.ldI nnn) s = .next t ∧ t.i.toNat = nnn.toNat ∧ SameOutside [.i] s t) ∧
  (∀ (x : Nibble) (s : State), ∃ t, exec (.addI x) s = .next t ∧
    t.i.toNat = (s.i.toNat + (s.getV x).toNat) % 65536 ∧ SameOutside [.i] s t) ∧
  ∀ (x : Nibble) (s : State), ∃ t, exec (.ldF x) s = .next t ∧
    t.i.toNat = s.cfg.fontBase.toNat + 5 * ((s.getV x).toNat % 16) ∧ SameOutside [.i] s t

/-- R16, R120: I is written by Annn, Fx1E and Fx29, and by Fx55 and Fx65 only under LOADSTORE_INC_I; of the steps, by
an execute step of one of these and by a reset. -/
def Obligations.OnlyListedInstructionsWriteI : Prop :=
  (∀ (i : Instr) (s t : State), exec i s = .next t → t.i ≠ s.i → writesI s.cfg i = true) ∧
  ∀ s t : State, step s = .next t → t.i ≠ s.i →
    s.nextRequest = .reset ∨ ∃ key rand i, s.nextRequest = .execute key rand ∧ s.mode = .running ∧
      decode s.fetchWord = .instr i ∧ writesI s.cfg i = true

/-- R85: Vx is the sampled random byte masked by kk, whatever byte was drawn. -/
def Obligations.RandomByteIsMasked : Prop :=
  (∀ (x : Nibble) (kk : Byte), decode (0xC#4 ++ x ++ kk) = .instr (.rnd x kk)) ∧
  ∀ (x : Nibble) (kk : Byte) (s : State), ∃ t, exec (.rnd x kk) s = .next t ∧ t.getV x = s.rand &&& kk ∧
    SameOutside [.v x] s t

/-- R54, R110, R111: KEY makes no difference to any instruction but Ex9E and ExA1, and RAND none to any but Cxkk. -/
def Obligations.InputsAreReadOnlyWhereListed : Prop :=
  (∀ (i : Instr) (s t : State) (k : Option Byte), (∀ x, i ≠ .skp x ∧ i ≠ .sknp x) → exec i s = .next t →
    exec i { s with key := k } = .next { t with key := k }) ∧
  ∀ (i : Instr) (s t : State) (r : Byte), (∀ x kk, i ≠ .rnd x kk) → exec i s = .next t →
    exec i { s with rand := r } = .next { t with rand := r }

/-- R86. -/
def Obligations.ClearScreenBlanksEveryPixel : Prop :=
  decode 0x00E0#16 = .instr .cls ∧
  ∀ s : State, ∃ t, exec .cls s = .next t ∧ (∀ c r, t.fb.pixel c r = false) ∧ SameOutside [.screen] s t

/-- R87: the loops of DRW XOR exactly the covered pixels, and VF is 1 exactly when a covered pixel was 1. Both depend
on the registers before the instruction, VF included. That bit 7 of a sprite byte is the leftmost column is the rule's
own general knowledge (GK4, log 16). -/
def Obligations.DrawXorsTheCoveredPixels : Prop :=
  (∀ x y n : Nibble, decode (0xD#4 ++ x ++ y ++ n) = .instr (.drw x y n)) ∧
  ∀ (x y n : Nibble) (s : State), ∃ t, exec (.drw x y n) s = .next t ∧
    (∀ c r, SpriteCovers s x y n c r → t.fb.pixel c r = !s.fb.pixel c r) ∧
    (∀ c r, ¬SpriteCovers s x y n c r → t.fb.pixel c r = s.fb.pixel c r) ∧
    (t.getV 0xF#4 = 0x01#8 ↔ ∃ c r, SpriteCovers s x y n c r ∧ s.fb.pixel c r = true) ∧
    (t.getV 0xF#4 = 0x00#8 ↔ ∀ c r, SpriteCovers s x y n c r → s.fb.pixel c r = false) ∧
    SameOutside [.v 0xF#4, .screen] s t

/-- R88, 90 C9: drawing a sprite again from the same origin restores every pixel, and the second flag is 1 exactly when
a covered pixel was 0 before the first draw, 0 exactly when every one was 1. -/
def Obligations.DrawingTwiceRestoresTheScreen : Prop :=
  ∀ (x y n : Nibble) (s t : State), exec (.drw x y n) s = .next t → t.getV x = s.getV x → t.getV y = s.getV y →
    ∃ u, exec (.drw x y n) t = .next u ∧ u.fb = s.fb ∧
      (u.getV 0xF#4 = 0x01#8 ↔ ∃ c r, SpriteCovers s x y n c r ∧ s.fb.pixel c r = false) ∧
      (u.getV 0xF#4 = 0x00#8 ↔ ∀ c r, SpriteCovers s x y n c r → s.fb.pixel c r = true)

/-- R23, R120: of the instructions only 00E0 and Dxyn change the framebuffer; of the steps only an execute step of one
of these and a reset do. -/
def Obligations.OnlyClearAndDrawChangeTheScreen : Prop :=
  (∀ (i : Instr) (s t : State), exec i s = .next t → t.fb ≠ s.fb → i = .cls ∨ ∃ x y n, i = .drw x y n) ∧
  ∀ s t : State, step s = .next t → t.fb ≠ s.fb →
    s.nextRequest = .reset ∨ ∃ key rand, s.nextRequest = .execute key rand ∧ s.mode = .running ∧
      (decode s.fetchWord = .instr .cls ∨ ∃ x y n, decode s.fetchWord = .instr (.drw x y n))

/-! Keys, timers, BCD and block transfer -/

/-- R91: Fx0A suspends the core for Vx, whatever KEY is, and changes nothing else; PC keeps its post-fetch value. -/
def Obligations.WaitForKeySuspends : Prop :=
  (∀ x : Nibble, decode (0xF#4 ++ x ++ 0x0A#8) = .instr (.ldVxK x)) ∧
  ∀ (x : Nibble) (s : State), ∃ t, exec (.ldVxK x) s = .next t ∧ t.mode = .awaitingKey x ∧ SameOutside [.mode] s t

/-- R93, R94, R95. -/
def Obligations.TimerTransfersMoveOneByte : Prop :=
  (∀ x : Nibble, decode (0xF#4 ++ x ++ 0x07#8) = .instr (.ldVxDT x)) ∧
  (∀ x : Nibble, decode (0xF#4 ++ x ++ 0x15#8) = .instr (.ldDTVx x)) ∧
  (∀ x : Nibble, decode (0xF#4 ++ x ++ 0x18#8) = .instr (.ldSTVx x)) ∧
  ∀ (x : Nibble) (s : State),
    (∃ t, exec (.ldVxDT x) s = .next t ∧ t.getV x = s.dt ∧ SameOutside [.v x] s t) ∧
    (∃ t, exec (.ldDTVx x) s = .next t ∧ t.dt = s.getV x ∧ SameOutside [.dt] s t) ∧
    (∃ t, exec (.ldSTVx x) s = .next t ∧ t.st = s.getV x ∧ SameOutside [.st] s t)

/-- R22: no instruction but Fx15 changes DT and none but Fx18 changes ST: the timers are never counted down by
instruction execution. -/
def Obligations.OnlyTimerLoadsChangeTheTimers : Prop :=
  ∀ (i : Instr) (s t : State), exec i s = .next t →
    (t.dt ≠ s.dt → ∃ x, i = .ldDTVx x) ∧ (t.st ≠ s.st → ∃ x, i = .ldSTVx x)

/-- R96: the hundreds, tens and ones digits at I, I + 1 and I + 2, each address mod 4096, and no other change. -/
def Obligations.BcdStoresThreeDigits : Prop :=
  (∀ x : Nibble, decode (0xF#4 ++ x ++ 0x33#8) = .instr (.ldB x)) ∧
  ∀ (x : Nibble) (s : State), ∃ t, exec (.ldB x) s = .next t ∧
    (t.memRead s.i.toNat).toNat = (s.getV x).toNat / 100 ∧
    (t.memRead (s.i.toNat + 1)).toNat = (s.getV x).toNat / 10 % 10 ∧
    (t.memRead (s.i.toNat + 2)).toNat = (s.getV x).toNat % 10 ∧
    SameOutside [.byte (memAddr s.i.toNat), .byte (memAddr (s.i.toNat + 1)), .byte (memAddr (s.i.toNat + 2))] s t

/-- R97: V0 to Vx at I to I + x, each address mod 4096; I moves past them under LOADSTORE_INC_I and not otherwise. -/
def Obligations.StoreRegistersWritesTheBlock : Prop :=
  (∀ x : Nibble, decode (0xF#4 ++ x ++ 0x55#8) = .instr (.stRegs x)) ∧
  ∀ (x : Nibble) (s : State), ∃ t, exec (.stRegs x) s = .next t ∧
    (∀ k : Nibble, k.toNat ≤ x.toNat → t.memRead (s.i.toNat + k.toNat) = s.getV k) ∧
    t.i.toNat = (if s.cfg.loadStoreIncI then (s.i.toNat + x.toNat + 1) % 65536 else s.i.toNat) ∧
    SameOutside (.i :: (List.range (x.toNat + 1)).map fun k => .byte (memAddr (s.i.toNat + k))) s t

/-- R98: V0 to Vx from I to I + x, each address mod 4096; registers above Vx are unchanged; I as in Fx55. -/
def Obligations.LoadRegistersReadsTheBlock : Prop :=
  (∀ x : Nibble, decode (0xF#4 ++ x ++ 0x65#8) = .instr (.ldRegs x)) ∧
  ∀ (x : Nibble) (s : State), ∃ t, exec (.ldRegs x) s = .next t ∧
    (∀ k : Nibble, k.toNat ≤ x.toNat → t.getV k = s.memRead (s.i.toNat + k.toNat)) ∧
    (∀ k : Nibble, x.toNat < k.toNat → t.getV k = s.getV k) ∧
    t.i.toNat = (if s.cfg.loadStoreIncI then (s.i.toNat + x.toNat + 1) % 65536 else s.i.toNat) ∧
    SameOutside (.i :: (vUpTo x).map .v) s t

/-- 95 L1-8 (R97, R98): registers stored and then loaded from the same index are back, whatever V0 to Vx held in
between, in any state with the stored bytes of memory. -/
def Obligations.StoreThenLoadRoundTrips : Prop :=
  ∀ (x : Nibble) (s t u : State), exec (.stRegs x) s = .next t → u.mem = t.mem → u.i = s.i →
    ∃ w, exec (.ldRegs x) u = .next w ∧ ∀ k : Nibble, k.toNat ≤ x.toNat → w.getV k = s.getV k

/-- R39, R127: after an execute step of Fx55 or Fx33, each of the two bytes the next fetch reads is the byte just
stored where the stored bytes lie over it, at whatever offset and over one byte or both, and the old byte where they
do not. -/
def Obligations.FetchSeesAStoreAtOnce : Prop :=
  ∀ (s t : State) (key : Option Byte) (rand : Byte) (x : Nibble), s.nextRequest = .execute key rand →
    s.mode = .running → step s = .next t →
    (decode s.fetchWord = .instr (.stRegs x) →
      t.mode = .running ∧ t.pc = s.pc + 2#16 ∧
      NextFetch s t (x.toNat + 1) fun k => s.getV (BitVec.ofNat 4 k)) ∧
    (decode s.fetchWord = .instr (.ldB x) →
      t.mode = .running ∧ t.pc = s.pc + 2#16 ∧
      NextFetch s t 3 fun k => BitVec.ofNat 8 ((s.getV x).toNat / 10 ^ (2 - k) % 10))

/-! Rules of the whole machine -/

/-- R29: of the instructions only Fx33 and Fx55 write memory; of the other steps only a loader write and a reset do. -/
def Obligations.OnlyStoresChangeMemory : Prop :=
  (∀ (i : Instr) (s t : State), exec i s = .next t → t.mem ≠ s.mem → ∃ x, i = .ldB x ∨ i = .stRegs x) ∧
  ∀ s t : State, step s = .next t → t.mem ≠ s.mem →
    (∃ key rand x, s.nextRequest = .execute key rand ∧ s.mode = .running ∧
      (decode s.fetchWord = .instr (.ldB x) ∨ decode s.fetchWord = .instr (.stRegs x))) ∨
      (∃ a d, s.nextRequest = .load a d) ∨ s.nextRequest = .reset

/-- R18, R19, R120: of the instructions only 2nnn and 00EE change the call stack, and SP by one; only they, 1nnn and
Bnnn set PC to a target; only the six skips, their condition met, add 2 to it. Of the steps only an execute step of 2nnn
or 00EE and a reset change the stack, and only a reset and an execute step in mode Running change PC: by 2 for the
fetch, to a target, or by 4 for a skip whose condition is met. -/
def Obligations.OnlyControlTransfersChangeStackAndPC : Prop :=
  (∀ (i : Instr) (s t : State), exec i s = .next t → t.stack ≠ s.stack →
    (∃ nnn, i = .call nnn) ∧ t.sp = s.sp + 1 ∨ i = .ret ∧ t.sp + 1 = s.sp) ∧
  (∀ (i : Instr) (s t : State), exec i s = .next t → t.pc ≠ s.pc →
    setsPC i = true ∨ t.pc = s.pc + 2#16 ∧ ∃ p, skipCondition s i = some p ∧ p) ∧
  (∀ s t : State, step s = .next t → t.stack ≠ s.stack →
    s.nextRequest = .reset ∨ ∃ key rand, s.nextRequest = .execute key rand ∧ s.mode = .running ∧
      ((∃ nnn, decode s.fetchWord = .instr (.call nnn)) ∧ t.sp = s.sp + 1 ∨
        decode s.fetchWord = .instr .ret ∧ t.sp + 1 = s.sp)) ∧
  ∀ s t : State, step s = .next t → t.pc ≠ s.pc →
    s.nextRequest = .reset ∨ ∃ key rand, s.nextRequest = .execute key rand ∧ s.mode = .running ∧
      (t.pc = s.pc + 2#16 ∨ ∃ i, decode s.fetchWord = .instr i ∧
        (setsPC i = true ∨ t.pc = s.pc + 4#16 ∧ ∃ p, skipCondition (s.sampled key rand) i = some p ∧ p))

/-- R19, R27, R41, R99 to R102: every step, from any state that meets the invariant, gives a state that meets it:
memory stays canonical, SP stays within STACK_DEPTH, a halted state still shows the condition its record names, with
PC two past it, and a core that has left Running takes no loader write. -/
def Obligations.EveryStepKeepsTheInvariant : Prop :=
  ∀ s t : State, Inv s → step s = .next t → Inv t

/-- R7, R26: the configuration is fixed for a run: no step changes it, a reset included (log 22). -/
def Obligations.NoStepChangesTheConfiguration : Prop :=
  ∀ s t : State, step s = .next t → t.cfg = s.cfg

/-- The invariant holds right after reset (R120). -/
def Obligations.ResetMeetsTheInvariant : Prop := Inv State.reset

/-- R115: what the output ports show. `sp_out` is SP where its 8 bits hold it and nothing is said beyond (a free value,
log 24; SP is the stack's length, log 9). Outside Halted the fault ports, which have no meaning then, are absent (log
23). -/
def Obligations.OutputsShowTheState : Prop :=
  ∀ s : State, s.outputs.stOut = s.st ∧ s.outputs.dtOut = s.dt ∧
    (∀ x : Nibble, s.outputs.vOut[x.toNat]'x.isLt = s.getV x) ∧ s.outputs.iOut = s.i ∧ s.outputs.pcOut = s.pc ∧
    (s.sp < 256 → s.outputs.spOut.toNat = s.sp) ∧ (∀ c r, s.fbPix c r = s.fb.pixel c r) ∧
    ((∀ f, s.mode ≠ .halted f) →
      s.outputs.faultCause = none ∧ s.outputs.faultPc = none ∧ s.outputs.faultWord = none) ∧
    (s.mode = .running → s.outputs.modeOut = 0#2) ∧ (∀ x, s.mode = .awaitingKey x → s.outputs.modeOut = 1#2) ∧
    ∀ f, s.mode = .halted f → s.outputs.modeOut = 2#2 ∧ s.outputs.faultCause = some (causeCode f.cause) ∧
      s.outputs.faultPc = some f.pc ∧ s.outputs.faultWord = some f.word
end

