-- ==== Sys2Proof/Laws/State.lean ====
section
/-! SUPPORT. What each state update does to each field: one lemma per field per update, so that no later proof
unfolds a record update. -/

namespace Sys2Proof.Machine

variable (s : State)

@[simp] theorem State.memWrite_v (a : Nat) (b : Byte) : (s.memWrite a b).v = s.v := rfl
@[simp] theorem State.memWrite_i (a : Nat) (b : Byte) : (s.memWrite a b).i = s.i := rfl
@[simp] theorem State.memWrite_pc (a : Nat) (b : Byte) : (s.memWrite a b).pc = s.pc := rfl
@[simp] theorem State.memWrite_stack (a : Nat) (b : Byte) : (s.memWrite a b).stack = s.stack := rfl
@[simp] theorem State.memWrite_dt (a : Nat) (b : Byte) : (s.memWrite a b).dt = s.dt := rfl
@[simp] theorem State.memWrite_st (a : Nat) (b : Byte) : (s.memWrite a b).st = s.st := rfl
@[simp] theorem State.memWrite_fb (a : Nat) (b : Byte) : (s.memWrite a b).fb = s.fb := rfl
@[simp] theorem State.memWrite_mode (a : Nat) (b : Byte) : (s.memWrite a b).mode = s.mode := rfl
@[simp] theorem State.memWrite_mem (a : Nat) (b : Byte) : (s.memWrite a b).mem = s.mem.update (memAddr a) b := rfl
@[simp] theorem State.memWrite_loadOpen (a : Nat) (b : Byte) : (s.memWrite a b).loadOpen = s.loadOpen := rfl
@[simp] theorem State.memWrite_cfg (a : Nat) (b : Byte) : (s.memWrite a b).cfg = s.cfg := rfl
@[simp] theorem State.memWrite_key (a : Nat) (b : Byte) : (s.memWrite a b).key = s.key := rfl
@[simp] theorem State.memWrite_rand (a : Nat) (b : Byte) : (s.memWrite a b).rand = s.rand := rfl
@[simp] theorem State.memWrite_script (a : Nat) (b : Byte) : (s.memWrite a b).script = s.script := rfl
@[simp] theorem State.memWrite_drawn (a : Nat) (b : Byte) : (s.memWrite a b).drawn = s.drawn := rfl

@[simp] theorem State.setV_v (x : Nibble) (b : Byte) : (s.setV x b).v = s.v.set x.toNat b x.isLt := rfl
@[simp] theorem State.setV_i (x : Nibble) (b : Byte) : (s.setV x b).i = s.i := rfl
@[simp] theorem State.setV_pc (x : Nibble) (b : Byte) : (s.setV x b).pc = s.pc := rfl
@[simp] theorem State.setV_stack (x : Nibble) (b : Byte) : (s.setV x b).stack = s.stack := rfl
@[simp] theorem State.setV_dt (x : Nibble) (b : Byte) : (s.setV x b).dt = s.dt := rfl
@[simp] theorem State.setV_st (x : Nibble) (b : Byte) : (s.setV x b).st = s.st := rfl
@[simp] theorem State.setV_fb (x : Nibble) (b : Byte) : (s.setV x b).fb = s.fb := rfl
@[simp] theorem State.setV_mode (x : Nibble) (b : Byte) : (s.setV x b).mode = s.mode := rfl
@[simp] theorem State.setV_mem (x : Nibble) (b : Byte) : (s.setV x b).mem = s.mem := rfl
@[simp] theorem State.setV_loadOpen (x : Nibble) (b : Byte) : (s.setV x b).loadOpen = s.loadOpen := rfl
@[simp] theorem State.setV_cfg (x : Nibble) (b : Byte) : (s.setV x b).cfg = s.cfg := rfl
@[simp] theorem State.setV_key (x : Nibble) (b : Byte) : (s.setV x b).key = s.key := rfl
@[simp] theorem State.setV_rand (x : Nibble) (b : Byte) : (s.setV x b).rand = s.rand := rfl
@[simp] theorem State.setV_script (x : Nibble) (b : Byte) : (s.setV x b).script = s.script := rfl
@[simp] theorem State.setV_drawn (x : Nibble) (b : Byte) : (s.setV x b).drawn = s.drawn := rfl

@[simp] theorem State.setI_v (w : Word) : (s.setI w).v = s.v := rfl
@[simp] theorem State.setI_i (w : Word) : (s.setI w).i = w := rfl
@[simp] theorem State.setI_pc (w : Word) : (s.setI w).pc = s.pc := rfl
@[simp] theorem State.setI_stack (w : Word) : (s.setI w).stack = s.stack := rfl
@[simp] theorem State.setI_dt (w : Word) : (s.setI w).dt = s.dt := rfl
@[simp] theorem State.setI_st (w : Word) : (s.setI w).st = s.st := rfl
@[simp] theorem State.setI_fb (w : Word) : (s.setI w).fb = s.fb := rfl
@[simp] theorem State.setI_mode (w : Word) : (s.setI w).mode = s.mode := rfl
@[simp] theorem State.setI_mem (w : Word) : (s.setI w).mem = s.mem := rfl
@[simp] theorem State.setI_loadOpen (w : Word) : (s.setI w).loadOpen = s.loadOpen := rfl
@[simp] theorem State.setI_cfg (w : Word) : (s.setI w).cfg = s.cfg := rfl
@[simp] theorem State.setI_key (w : Word) : (s.setI w).key = s.key := rfl
@[simp] theorem State.setI_rand (w : Word) : (s.setI w).rand = s.rand := rfl
@[simp] theorem State.setI_script (w : Word) : (s.setI w).script = s.script := rfl
@[simp] theorem State.setI_drawn (w : Word) : (s.setI w).drawn = s.drawn := rfl

@[simp] theorem State.setPC_v (w : Word) : (s.setPC w).v = s.v := rfl
@[simp] theorem State.setPC_i (w : Word) : (s.setPC w).i = s.i := rfl
@[simp] theorem State.setPC_pc (w : Word) : (s.setPC w).pc = w := rfl
@[simp] theorem State.setPC_stack (w : Word) : (s.setPC w).stack = s.stack := rfl
@[simp] theorem State.setPC_dt (w : Word) : (s.setPC w).dt = s.dt := rfl
@[simp] theorem State.setPC_st (w : Word) : (s.setPC w).st = s.st := rfl
@[simp] theorem State.setPC_fb (w : Word) : (s.setPC w).fb = s.fb := rfl
@[simp] theorem State.setPC_mode (w : Word) : (s.setPC w).mode = s.mode := rfl
@[simp] theorem State.setPC_mem (w : Word) : (s.setPC w).mem = s.mem := rfl
@[simp] theorem State.setPC_loadOpen (w : Word) : (s.setPC w).loadOpen = s.loadOpen := rfl
@[simp] theorem State.setPC_cfg (w : Word) : (s.setPC w).cfg = s.cfg := rfl
@[simp] theorem State.setPC_key (w : Word) : (s.setPC w).key = s.key := rfl
@[simp] theorem State.setPC_rand (w : Word) : (s.setPC w).rand = s.rand := rfl
@[simp] theorem State.setPC_script (w : Word) : (s.setPC w).script = s.script := rfl
@[simp] theorem State.setPC_drawn (w : Word) : (s.setPC w).drawn = s.drawn := rfl

@[simp] theorem State.setDT_v (b : Byte) : (s.setDT b).v = s.v := rfl
@[simp] theorem State.setDT_i (b : Byte) : (s.setDT b).i = s.i := rfl
@[simp] theorem State.setDT_pc (b : Byte) : (s.setDT b).pc = s.pc := rfl
@[simp] theorem State.setDT_stack (b : Byte) : (s.setDT b).stack = s.stack := rfl
@[simp] theorem State.setDT_dt (b : Byte) : (s.setDT b).dt = b := rfl
@[simp] theorem State.setDT_st (b : Byte) : (s.setDT b).st = s.st := rfl
@[simp] theorem State.setDT_fb (b : Byte) : (s.setDT b).fb = s.fb := rfl
@[simp] theorem State.setDT_mode (b : Byte) : (s.setDT b).mode = s.mode := rfl
@[simp] theorem State.setDT_mem (b : Byte) : (s.setDT b).mem = s.mem := rfl
@[simp] theorem State.setDT_loadOpen (b : Byte) : (s.setDT b).loadOpen = s.loadOpen := rfl
@[simp] theorem State.setDT_cfg (b : Byte) : (s.setDT b).cfg = s.cfg := rfl
@[simp] theorem State.setDT_key (b : Byte) : (s.setDT b).key = s.key := rfl
@[simp] theorem State.setDT_rand (b : Byte) : (s.setDT b).rand = s.rand := rfl
@[simp] theorem State.setDT_script (b : Byte) : (s.setDT b).script = s.script := rfl
@[simp] theorem State.setDT_drawn (b : Byte) : (s.setDT b).drawn = s.drawn := rfl

@[simp] theorem State.setST_v (b : Byte) : (s.setST b).v = s.v := rfl
@[simp] theorem State.setST_i (b : Byte) : (s.setST b).i = s.i := rfl
@[simp] theorem State.setST_pc (b : Byte) : (s.setST b).pc = s.pc := rfl
@[simp] theorem State.setST_stack (b : Byte) : (s.setST b).stack = s.stack := rfl
@[simp] theorem State.setST_dt (b : Byte) : (s.setST b).dt = s.dt := rfl
@[simp] theorem State.setST_st (b : Byte) : (s.setST b).st = b := rfl
@[simp] theorem State.setST_fb (b : Byte) : (s.setST b).fb = s.fb := rfl
@[simp] theorem State.setST_mode (b : Byte) : (s.setST b).mode = s.mode := rfl
@[simp] theorem State.setST_mem (b : Byte) : (s.setST b).mem = s.mem := rfl
@[simp] theorem State.setST_loadOpen (b : Byte) : (s.setST b).loadOpen = s.loadOpen := rfl
@[simp] theorem State.setST_cfg (b : Byte) : (s.setST b).cfg = s.cfg := rfl
@[simp] theorem State.setST_key (b : Byte) : (s.setST b).key = s.key := rfl
@[simp] theorem State.setST_rand (b : Byte) : (s.setST b).rand = s.rand := rfl
@[simp] theorem State.setST_script (b : Byte) : (s.setST b).script = s.script := rfl
@[simp] theorem State.setST_drawn (b : Byte) : (s.setST b).drawn = s.drawn := rfl

@[simp] theorem State.setMode_v (m : Mode) : (s.setMode m).v = s.v := rfl
@[simp] theorem State.setMode_i (m : Mode) : (s.setMode m).i = s.i := rfl
@[simp] theorem State.setMode_pc (m : Mode) : (s.setMode m).pc = s.pc := rfl
@[simp] theorem State.setMode_stack (m : Mode) : (s.setMode m).stack = s.stack := rfl
@[simp] theorem State.setMode_dt (m : Mode) : (s.setMode m).dt = s.dt := rfl
@[simp] theorem State.setMode_st (m : Mode) : (s.setMode m).st = s.st := rfl
@[simp] theorem State.setMode_fb (m : Mode) : (s.setMode m).fb = s.fb := rfl
@[simp] theorem State.setMode_mode (m : Mode) : (s.setMode m).mode = m := rfl
@[simp] theorem State.setMode_mem (m : Mode) : (s.setMode m).mem = s.mem := rfl
@[simp] theorem State.setMode_loadOpen (m : Mode) : (s.setMode m).loadOpen = s.loadOpen := rfl
@[simp] theorem State.setMode_cfg (m : Mode) : (s.setMode m).cfg = s.cfg := rfl
@[simp] theorem State.setMode_key (m : Mode) : (s.setMode m).key = s.key := rfl
@[simp] theorem State.setMode_rand (m : Mode) : (s.setMode m).rand = s.rand := rfl
@[simp] theorem State.setMode_script (m : Mode) : (s.setMode m).script = s.script := rfl
@[simp] theorem State.setMode_drawn (m : Mode) : (s.setMode m).drawn = s.drawn := rfl

@[simp] theorem State.setFB_v (f : FrameBuffer) : (s.setFB f).v = s.v := rfl
@[simp] theorem State.setFB_i (f : FrameBuffer) : (s.setFB f).i = s.i := rfl
@[simp] theorem State.setFB_pc (f : FrameBuffer) : (s.setFB f).pc = s.pc := rfl
@[simp] theorem State.setFB_stack (f : FrameBuffer) : (s.setFB f).stack = s.stack := rfl
@[simp] theorem State.setFB_dt (f : FrameBuffer) : (s.setFB f).dt = s.dt := rfl
@[simp] theorem State.setFB_st (f : FrameBuffer) : (s.setFB f).st = s.st := rfl
@[simp] theorem State.setFB_fb (f : FrameBuffer) : (s.setFB f).fb = f := rfl
@[simp] theorem State.setFB_mode (f : FrameBuffer) : (s.setFB f).mode = s.mode := rfl
@[simp] theorem State.setFB_mem (f : FrameBuffer) : (s.setFB f).mem = s.mem := rfl
@[simp] theorem State.setFB_loadOpen (f : FrameBuffer) : (s.setFB f).loadOpen = s.loadOpen := rfl
@[simp] theorem State.setFB_cfg (f : FrameBuffer) : (s.setFB f).cfg = s.cfg := rfl
@[simp] theorem State.setFB_key (f : FrameBuffer) : (s.setFB f).key = s.key := rfl
@[simp] theorem State.setFB_rand (f : FrameBuffer) : (s.setFB f).rand = s.rand := rfl
@[simp] theorem State.setFB_script (f : FrameBuffer) : (s.setFB f).script = s.script := rfl
@[simp] theorem State.setFB_drawn (f : FrameBuffer) : (s.setFB f).drawn = s.drawn := rfl

@[simp] theorem State.setStack_v (l : List Word) : (s.setStack l).v = s.v := rfl
@[simp] theorem State.setStack_i (l : List Word) : (s.setStack l).i = s.i := rfl
@[simp] theorem State.setStack_pc (l : List Word) : (s.setStack l).pc = s.pc := rfl
@[simp] theorem State.setStack_stack (l : List Word) : (s.setStack l).stack = l := rfl
@[simp] theorem State.setStack_dt (l : List Word) : (s.setStack l).dt = s.dt := rfl
@[simp] theorem State.setStack_st (l : List Word) : (s.setStack l).st = s.st := rfl
@[simp] theorem State.setStack_fb (l : List Word) : (s.setStack l).fb = s.fb := rfl
@[simp] theorem State.setStack_mode (l : List Word) : (s.setStack l).mode = s.mode := rfl
@[simp] theorem State.setStack_mem (l : List Word) : (s.setStack l).mem = s.mem := rfl
@[simp] theorem State.setStack_loadOpen (l : List Word) : (s.setStack l).loadOpen = s.loadOpen := rfl
@[simp] theorem State.setStack_cfg (l : List Word) : (s.setStack l).cfg = s.cfg := rfl
@[simp] theorem State.setStack_key (l : List Word) : (s.setStack l).key = s.key := rfl
@[simp] theorem State.setStack_rand (l : List Word) : (s.setStack l).rand = s.rand := rfl
@[simp] theorem State.setStack_script (l : List Word) : (s.setStack l).script = s.script := rfl
@[simp] theorem State.setStack_drawn (l : List Word) : (s.setStack l).drawn = s.drawn := rfl

@[simp] theorem State.advancePC_v : s.advancePC.v = s.v := rfl
@[simp] theorem State.advancePC_i : s.advancePC.i = s.i := rfl
@[simp] theorem State.advancePC_pc : s.advancePC.pc = s.pc + 2#16 := rfl
@[simp] theorem State.advancePC_stack : s.advancePC.stack = s.stack := rfl
@[simp] theorem State.advancePC_dt : s.advancePC.dt = s.dt := rfl
@[simp] theorem State.advancePC_st : s.advancePC.st = s.st := rfl
@[simp] theorem State.advancePC_fb : s.advancePC.fb = s.fb := rfl
@[simp] theorem State.advancePC_mode : s.advancePC.mode = s.mode := rfl
@[simp] theorem State.advancePC_mem : s.advancePC.mem = s.mem := rfl
@[simp] theorem State.advancePC_loadOpen : s.advancePC.loadOpen = s.loadOpen := rfl
@[simp] theorem State.advancePC_cfg : s.advancePC.cfg = s.cfg := rfl
@[simp] theorem State.advancePC_key : s.advancePC.key = s.key := rfl
@[simp] theorem State.advancePC_rand : s.advancePC.rand = s.rand := rfl
@[simp] theorem State.advancePC_script : s.advancePC.script = s.script := rfl
@[simp] theorem State.advancePC_drawn : s.advancePC.drawn = s.drawn := rfl

@[simp] theorem State.raiseFatal_v (c : FatalCause) (a w : Word) : (s.raiseFatal c a w).v = s.v := rfl
@[simp] theorem State.raiseFatal_i (c : FatalCause) (a w : Word) : (s.raiseFatal c a w).i = s.i := rfl
@[simp] theorem State.raiseFatal_pc (c : FatalCause) (a w : Word) : (s.raiseFatal c a w).pc = s.pc := rfl
@[simp] theorem State.raiseFatal_stack (c : FatalCause) (a w : Word) : (s.raiseFatal c a w).stack = s.stack := rfl
@[simp] theorem State.raiseFatal_dt (c : FatalCause) (a w : Word) : (s.raiseFatal c a w).dt = s.dt := rfl
@[simp] theorem State.raiseFatal_st (c : FatalCause) (a w : Word) : (s.raiseFatal c a w).st = s.st := rfl
@[simp] theorem State.raiseFatal_fb (c : FatalCause) (a w : Word) : (s.raiseFatal c a w).fb = s.fb := rfl
@[simp] theorem State.raiseFatal_mode (c : FatalCause) (a w : Word) : (s.raiseFatal c a w).mode = .halted { cause := c, pc := a, word := w } := rfl
@[simp] theorem State.raiseFatal_mem (c : FatalCause) (a w : Word) : (s.raiseFatal c a w).mem = s.mem := rfl
@[simp] theorem State.raiseFatal_loadOpen (c : FatalCause) (a w : Word) : (s.raiseFatal c a w).loadOpen = s.loadOpen := rfl
@[simp] theorem State.raiseFatal_cfg (c : FatalCause) (a w : Word) : (s.raiseFatal c a w).cfg = s.cfg := rfl
@[simp] theorem State.raiseFatal_key (c : FatalCause) (a w : Word) : (s.raiseFatal c a w).key = s.key := rfl
@[simp] theorem State.raiseFatal_rand (c : FatalCause) (a w : Word) : (s.raiseFatal c a w).rand = s.rand := rfl
@[simp] theorem State.raiseFatal_script (c : FatalCause) (a w : Word) : (s.raiseFatal c a w).script = s.script := rfl
@[simp] theorem State.raiseFatal_drawn (c : FatalCause) (a w : Word) : (s.raiseFatal c a w).drawn = s.drawn := rfl

@[simp] theorem State.sample_v (key : Option Byte) (rand : Byte) : (s.sample key rand).v = s.v := rfl
@[simp] theorem State.sample_i (key : Option Byte) (rand : Byte) : (s.sample key rand).i = s.i := rfl
@[simp] theorem State.sample_pc (key : Option Byte) (rand : Byte) : (s.sample key rand).pc = s.pc := rfl
@[simp] theorem State.sample_stack (key : Option Byte) (rand : Byte) : (s.sample key rand).stack = s.stack := rfl
@[simp] theorem State.sample_dt (key : Option Byte) (rand : Byte) : (s.sample key rand).dt = s.dt := rfl
@[simp] theorem State.sample_st (key : Option Byte) (rand : Byte) : (s.sample key rand).st = s.st := rfl
@[simp] theorem State.sample_fb (key : Option Byte) (rand : Byte) : (s.sample key rand).fb = s.fb := rfl
@[simp] theorem State.sample_mode (key : Option Byte) (rand : Byte) : (s.sample key rand).mode = s.mode := rfl
@[simp] theorem State.sample_mem (key : Option Byte) (rand : Byte) : (s.sample key rand).mem = s.mem := rfl
@[simp] theorem State.sample_loadOpen (key : Option Byte) (rand : Byte) : (s.sample key rand).loadOpen = false := rfl
@[simp] theorem State.sample_cfg (key : Option Byte) (rand : Byte) : (s.sample key rand).cfg = s.cfg := rfl
@[simp] theorem State.sample_key (key : Option Byte) (rand : Byte) : (s.sample key rand).key = key := rfl
@[simp] theorem State.sample_rand (key : Option Byte) (rand : Byte) : (s.sample key rand).rand = rand := rfl
@[simp] theorem State.sample_script (key : Option Byte) (rand : Byte) : (s.sample key rand).script = s.script := rfl
@[simp] theorem State.sample_drawn (key : Option Byte) (rand : Byte) : (s.sample key rand).drawn = s.drawn := rfl

@[simp] theorem State.resetCore_v : s.resetCore.v = State.reset.v := rfl
@[simp] theorem State.resetCore_i : s.resetCore.i = State.reset.i := rfl
@[simp] theorem State.resetCore_pc : s.resetCore.pc = s.cfg.loadAddr.setWidth 16 := rfl
@[simp] theorem State.resetCore_stack : s.resetCore.stack = State.reset.stack := rfl
@[simp] theorem State.resetCore_dt : s.resetCore.dt = State.reset.dt := rfl
@[simp] theorem State.resetCore_st : s.resetCore.st = State.reset.st := rfl
@[simp] theorem State.resetCore_fb : s.resetCore.fb = State.reset.fb := rfl
@[simp] theorem State.resetCore_mode : s.resetCore.mode = State.reset.mode := rfl
@[simp] theorem State.resetCore_mem : s.resetCore.mem = State.reset.mem := rfl
@[simp] theorem State.resetCore_loadOpen : s.resetCore.loadOpen = State.reset.loadOpen := rfl
@[simp] theorem State.resetCore_cfg : s.resetCore.cfg = s.cfg := rfl
@[simp] theorem State.resetCore_key : s.resetCore.key = s.key := rfl
@[simp] theorem State.resetCore_rand : s.resetCore.rand = s.rand := rfl
@[simp] theorem State.resetCore_script : s.resetCore.script = s.script := rfl
@[simp] theorem State.resetCore_drawn : s.resetCore.drawn = s.drawn := rfl

@[simp] theorem State.takeRequest_v : s.takeRequest.v = s.v := by
  unfold State.takeRequest; split <;> rfl
@[simp] theorem State.takeRequest_i : s.takeRequest.i = s.i := by
  unfold State.takeRequest; split <;> rfl
@[simp] theorem State.takeRequest_pc : s.takeRequest.pc = s.pc := by
  unfold State.takeRequest; split <;> rfl
@[simp] theorem State.takeRequest_stack : s.takeRequest.stack = s.stack := by
  unfold State.takeRequest; split <;> rfl
@[simp] theorem State.takeRequest_dt : s.takeRequest.dt = s.dt := by
  unfold State.takeRequest; split <;> rfl
@[simp] theorem State.takeRequest_st : s.takeRequest.st = s.st := by
  unfold State.takeRequest; split <;> rfl
@[simp] theorem State.takeRequest_fb : s.takeRequest.fb = s.fb := by
  unfold State.takeRequest; split <;> rfl
@[simp] theorem State.takeRequest_mode : s.takeRequest.mode = s.mode := by
  unfold State.takeRequest; split <;> rfl
@[simp] theorem State.takeRequest_mem : s.takeRequest.mem = s.mem := by
  unfold State.takeRequest; split <;> rfl
@[simp] theorem State.takeRequest_loadOpen : s.takeRequest.loadOpen = s.loadOpen := by
  unfold State.takeRequest; split <;> rfl
@[simp] theorem State.takeRequest_cfg : s.takeRequest.cfg = s.cfg := by
  unfold State.takeRequest; split <;> rfl
@[simp] theorem State.takeRequest_key : s.takeRequest.key = s.key := by
  unfold State.takeRequest; split <;> rfl
@[simp] theorem State.takeRequest_rand : s.takeRequest.rand = s.rand := by
  unfold State.takeRequest; split <;> rfl

@[simp] theorem State.skipIf_v (c : Bool) : (s.skipIf c).v = s.v := by cases c <;> rfl
@[simp] theorem State.skipIf_i (c : Bool) : (s.skipIf c).i = s.i := by cases c <;> rfl
@[simp] theorem State.skipIf_pc (c : Bool) : (s.skipIf c).pc = if c then s.pc + 2#16 else s.pc := by cases c <;> rfl
@[simp] theorem State.skipIf_stack (c : Bool) : (s.skipIf c).stack = s.stack := by cases c <;> rfl
@[simp] theorem State.skipIf_dt (c : Bool) : (s.skipIf c).dt = s.dt := by cases c <;> rfl
@[simp] theorem State.skipIf_st (c : Bool) : (s.skipIf c).st = s.st := by cases c <;> rfl
@[simp] theorem State.skipIf_fb (c : Bool) : (s.skipIf c).fb = s.fb := by cases c <;> rfl
@[simp] theorem State.skipIf_mode (c : Bool) : (s.skipIf c).mode = s.mode := by cases c <;> rfl
@[simp] theorem State.skipIf_mem (c : Bool) : (s.skipIf c).mem = s.mem := by cases c <;> rfl
@[simp] theorem State.skipIf_loadOpen (c : Bool) : (s.skipIf c).loadOpen = s.loadOpen := by cases c <;> rfl
@[simp] theorem State.skipIf_cfg (c : Bool) : (s.skipIf c).cfg = s.cfg := by cases c <;> rfl
@[simp] theorem State.skipIf_key (c : Bool) : (s.skipIf c).key = s.key := by cases c <;> rfl
@[simp] theorem State.skipIf_rand (c : Bool) : (s.skipIf c).rand = s.rand := by cases c <;> rfl
@[simp] theorem State.skipIf_script (c : Bool) : (s.skipIf c).script = s.script := by cases c <;> rfl
@[simp] theorem State.skipIf_drawn (c : Bool) : (s.skipIf c).drawn = s.drawn := by cases c <;> rfl

@[simp] theorem State.waitStep_i (x : Nibble) : (s.waitStep x).i = s.i := by
  unfold State.waitStep; split <;> rfl
@[simp] theorem State.waitStep_pc (x : Nibble) : (s.waitStep x).pc = s.pc := by
  unfold State.waitStep; split <;> rfl
@[simp] theorem State.waitStep_stack (x : Nibble) : (s.waitStep x).stack = s.stack := by
  unfold State.waitStep; split <;> rfl
@[simp] theorem State.waitStep_dt (x : Nibble) : (s.waitStep x).dt = s.dt := by
  unfold State.waitStep; split <;> rfl
@[simp] theorem State.waitStep_st (x : Nibble) : (s.waitStep x).st = s.st := by
  unfold State.waitStep; split <;> rfl
@[simp] theorem State.waitStep_fb (x : Nibble) : (s.waitStep x).fb = s.fb := by
  unfold State.waitStep; split <;> rfl
@[simp] theorem State.waitStep_mem (x : Nibble) : (s.waitStep x).mem = s.mem := by
  unfold State.waitStep; split <;> rfl
@[simp] theorem State.waitStep_loadOpen (x : Nibble) : (s.waitStep x).loadOpen = s.loadOpen := by
  unfold State.waitStep; split <;> rfl
@[simp] theorem State.waitStep_cfg (x : Nibble) : (s.waitStep x).cfg = s.cfg := by
  unfold State.waitStep; split <;> rfl
@[simp] theorem State.waitStep_key (x : Nibble) : (s.waitStep x).key = s.key := by
  unfold State.waitStep; split <;> rfl
@[simp] theorem State.waitStep_rand (x : Nibble) : (s.waitStep x).rand = s.rand := by
  unfold State.waitStep; split <;> rfl
@[simp] theorem State.waitStep_script (x : Nibble) : (s.waitStep x).script = s.script := by
  unfold State.waitStep; split <;> rfl
@[simp] theorem State.waitStep_drawn (x : Nibble) : (s.waitStep x).drawn = s.drawn := by
  unfold State.waitStep; split <;> rfl

@[simp] theorem State.tickStep_v : s.tickStep.v = s.v := by
  unfold State.tickStep; split <;> rfl
@[simp] theorem State.tickStep_i : s.tickStep.i = s.i := by
  unfold State.tickStep; split <;> rfl
@[simp] theorem State.tickStep_pc : s.tickStep.pc = s.pc := by
  unfold State.tickStep; split <;> rfl
@[simp] theorem State.tickStep_stack : s.tickStep.stack = s.stack := by
  unfold State.tickStep; split <;> rfl
@[simp] theorem State.tickStep_fb : s.tickStep.fb = s.fb := by
  unfold State.tickStep; split <;> rfl
@[simp] theorem State.tickStep_mode : s.tickStep.mode = s.mode := by
  unfold State.tickStep; split <;> rfl
@[simp] theorem State.tickStep_mem : s.tickStep.mem = s.mem := by
  unfold State.tickStep; split <;> rfl
@[simp] theorem State.tickStep_loadOpen : s.tickStep.loadOpen = s.loadOpen := by
  unfold State.tickStep; split <;> rfl
@[simp] theorem State.tickStep_cfg : s.tickStep.cfg = s.cfg := by
  unfold State.tickStep; split <;> rfl
@[simp] theorem State.tickStep_key : s.tickStep.key = s.key := by
  unfold State.tickStep; split <;> rfl
@[simp] theorem State.tickStep_rand : s.tickStep.rand = s.rand := by
  unfold State.tickStep; split <;> rfl
@[simp] theorem State.tickStep_script : s.tickStep.script = s.script := by
  unfold State.tickStep; split <;> rfl
@[simp] theorem State.tickStep_drawn : s.tickStep.drawn = s.drawn := by
  unfold State.tickStep; split <;> rfl

/-- A request of the script is the next one, and taking it leaves the rest. -/
theorem State.nextRequest_of_script {s : State} {r : HostRequest} {rest : List HostRequest} (h : s.script = r :: rest) :
    s.nextRequest = r := by
  simp [State.nextRequest, h]

/-- Taking a request of the script changes the script alone. -/
theorem State.takeRequest_of_script {s : State} {r : HostRequest} {rest : List HostRequest} (h : s.script = r :: rest) :
    s.takeRequest = { s with script := rest } := by
  simp [State.takeRequest, h]

end Sys2Proof.Machine
end

