-- ==== Sys2Proof/Laws/Memory.lean ====
section
/-! SUPPORT. Memory: reading back a write, leaving every other address alone, and the canonical form, which every
memory operation keeps (spec/20_memory.md R27, R28, R37). -/

namespace Sys2Proof.Machine

/-- Reading a list after a cell is placed in it. -/
theorem Memory.lookup_insertCell (m : Memory) (a b : Nat) (v : Byte) :
    (m.insertCell a v).lookup b = if a = b then v else m.lookup b := by
  induction m with
  | nil => simp [Memory.insertCell, Memory.lookup]
  | cons cell rest ih =>
    obtain ⟨c, w⟩ := cell
    simp only [Memory.insertCell]
    split
    · simp [Memory.lookup]
    · split
      · subst_vars; by_cases h : c = b <;> simp [Memory.lookup, h]
      · simp only [Memory.lookup, ih]
        grind

/-- Reading a list after every cell of an address is removed. -/
theorem Memory.lookup_filter (m : Memory) (a b : Nat) :
    Memory.lookup (m.filter (fun cell => cell.1 != a)) b = if a = b then unlistedByte else m.lookup b := by
  induction m with
  | nil => simp [Memory.lookup]
  | cons cell rest ih =>
    obtain ⟨c, w⟩ := cell
    by_cases h : c = a
    · subst h; simp only [List.filter, bne_self_eq_false, ih, Memory.lookup]; split <;> rfl
    · have : (c != a) = true := by simpa using h
      simp only [List.filter, this, Memory.lookup, ih]
      grind

/-- A read after an update gives the byte written at its address and the old byte everywhere else. -/
theorem Memory.lookup_update (m : Memory) (a b : Nat) (v : Byte) :
    (m.update a v).lookup b = if a = b then v else m.lookup b := by
  unfold Memory.update
  split
  · next h => rw [Memory.lookup_filter, h]
  · exact Memory.lookup_insertCell m a b v

/-- The bound a cell of a canonical list lies above. -/
theorem Memory.wfAbove_cons (low : Option Nat) (a : Nat) (v : Byte) (rest : Memory) :
    Memory.wfAbove low ((a, v) :: rest) = true ↔
      (∀ b, low = some b → b < a) ∧ a < hardwareConfig.memSize ∧ v ≠ unlistedByte ∧ Memory.wfAbove (some a) rest = true := by
  cases low <;> simp [Memory.wfAbove, and_assoc]

/-- A canonical list stays canonical under a lower bound. -/
theorem Memory.wfAbove_weaken {low low' : Option Nat} {m : Memory} (h : Memory.wfAbove low m = true)
    (hl : ∀ b, low' = some b → ∃ c, low = some c ∧ b ≤ c) : Memory.wfAbove low' m = true := by
  cases m with
  | nil => rfl
  | cons cell rest =>
    obtain ⟨a, v⟩ := cell
    rw [Memory.wfAbove_cons] at h ⊢
    refine ⟨fun b hb => ?_, h.2⟩
    obtain ⟨c, hc, hbc⟩ := hl b hb
    exact lt_of_le_of_lt hbc (h.1 c hc)

/-- Placing a cell keeps the canonical form. -/
theorem Memory.wfAbove_insertCell {low : Option Nat} {m : Memory} {a : Nat} {v : Byte}
    (h : Memory.wfAbove low m = true) (hl : ∀ b, low = some b → b < a) (ha : a < hardwareConfig.memSize)
    (hv : v ≠ unlistedByte) : Memory.wfAbove low (m.insertCell a v) = true := by
  induction m generalizing low with
  | nil => exact (Memory.wfAbove_cons ..).2 ⟨hl, ha, hv, rfl⟩
  | cons cell rest ih =>
    obtain ⟨b, w⟩ := cell
    have hb := (Memory.wfAbove_cons ..).1 h
    simp only [Memory.insertCell]
    split
    · next hab =>
      exact (Memory.wfAbove_cons ..).2 ⟨hl, ha, hv, (Memory.wfAbove_cons ..).2 ⟨by simpa using hab, hb.2⟩⟩
    · split
      · next hab => subst hab; exact (Memory.wfAbove_cons ..).2 ⟨hl, ha, hv, hb.2.2.2⟩
      · exact (Memory.wfAbove_cons ..).2 ⟨hb.1, hb.2.1, hb.2.2.1, ih hb.2.2.2 (by simp; omega)⟩

/-- Removing an address keeps the canonical form. -/
theorem Memory.wfAbove_filter {low : Option Nat} {m : Memory} (a : Nat) (h : Memory.wfAbove low m = true) :
    Memory.wfAbove low (m.filter (fun cell => cell.1 != a)) = true := by
  induction m generalizing low with
  | nil => rfl
  | cons cell rest ih =>
    obtain ⟨b, w⟩ := cell
    have hb := (Memory.wfAbove_cons ..).1 h
    by_cases hba : b = a
    · have : (b != a) = false := by simpa using hba
      simp only [List.filter, this]
      exact Memory.wfAbove_weaken (ih hb.2.2.2) fun c hc => ⟨b, rfl, le_of_lt (hb.1 c hc)⟩
    · have : (b != a) = true := by simpa using hba
      simp only [List.filter, this]
      exact (Memory.wfAbove_cons ..).2 ⟨hb.1, hb.2.1, hb.2.2.1, ih hb.2.2.2⟩

/-- Every update below `MEM_SIZE` keeps the canonical form. -/
theorem Memory.wf_update {m : Memory} {a : Nat} {v : Byte} (h : m.wf = true) (ha : a < hardwareConfig.memSize) :
    (m.update a v).wf = true := by
  unfold Memory.update
  split
  · exact Memory.wfAbove_filter a h
  · next hv => exact Memory.wfAbove_insertCell h (by simp) ha hv

/-- The size of the address space on this hardware (R7, R27). -/
theorem memSize_eq : hardwareConfig.memSize = 4096 := rfl

/-- An address reaches memory reduced mod 4096 (R28). -/
theorem memAddr_eq (a : Nat) : memAddr a = a % 4096 := rfl

/-- An address that reaches memory is in the address space (R28). -/
theorem memAddr_lt (a : Nat) : memAddr a < hardwareConfig.memSize := Nat.mod_lt _ (by decide)

@[simp] theorem memAddr_memAddr (a : Nat) : memAddr (memAddr a) = memAddr a := Nat.mod_mod _ _

/-- A read after a write: the byte written where the two addresses meet mod 4096, the old byte elsewhere. -/
theorem State.memRead_memWrite (s : State) (a b : Nat) (v : Byte) :
    (s.memWrite a v).memRead b = if memAddr a = memAddr b then v else s.memRead b := by
  simp [State.memRead, Memory.lookup_update]

@[simp] theorem State.memRead_memWrite_same (s : State) (a : Nat) (v : Byte) : (s.memWrite a v).memRead a = v := by
  simp [State.memRead_memWrite]

/-- Two offsets from one base below 4096 meet only where they are equal. -/
theorem memAddr_add_inj {base j k : Nat} (hj : j < hardwareConfig.memSize) (hk : k < hardwareConfig.memSize) :
    memAddr (base + j) = memAddr (base + k) ↔ j = k := by
  rw [memSize_eq] at hj hk
  simp only [memAddr_eq]
  omega

/-- A memory write keeps the canonical form. -/
theorem State.memWrite_wf {s : State} (h : s.mem.wf = true) (a : Nat) (v : Byte) : (s.memWrite a v).mem.wf = true :=
  Memory.wf_update h (memAddr_lt a)

end Sys2Proof.Machine
end

