-- ==== Sys2Proof/Laws/Ops.lean ====
section
/-! SUPPORT. What each shared operation can do, said once: registers, memory seen through `memRead`, the stack, the
framebuffer, the timers, the wait step and the block loops. -/

namespace Sys2Proof.Machine

variable (s : State)

/-! The reads `getV` and `memRead` after an update of something else. -/

@[simp] theorem State.getV_memWrite (a : Nat) (b : Byte) (r : Nibble) : (s.memWrite a b).getV r = s.getV r := rfl
@[simp] theorem State.memRead_setV (x : Nibble) (b : Byte) (n : Nat) : (s.setV x b).memRead n = s.memRead n := rfl
@[simp] theorem State.getV_setI (w : Word) (r : Nibble) : (s.setI w).getV r = s.getV r := rfl
@[simp] theorem State.memRead_setI (w : Word) (n : Nat) : (s.setI w).memRead n = s.memRead n := rfl
@[simp] theorem State.getV_setPC (w : Word) (r : Nibble) : (s.setPC w).getV r = s.getV r := rfl
@[simp] theorem State.memRead_setPC (w : Word) (n : Nat) : (s.setPC w).memRead n = s.memRead n := rfl
@[simp] theorem State.getV_setDT (b : Byte) (r : Nibble) : (s.setDT b).getV r = s.getV r := rfl
@[simp] theorem State.memRead_setDT (b : Byte) (n : Nat) : (s.setDT b).memRead n = s.memRead n := rfl
@[simp] theorem State.getV_setST (b : Byte) (r : Nibble) : (s.setST b).getV r = s.getV r := rfl
@[simp] theorem State.memRead_setST (b : Byte) (n : Nat) : (s.setST b).memRead n = s.memRead n := rfl
@[simp] theorem State.getV_setMode (m : Mode) (r : Nibble) : (s.setMode m).getV r = s.getV r := rfl
@[simp] theorem State.memRead_setMode (m : Mode) (n : Nat) : (s.setMode m).memRead n = s.memRead n := rfl
@[simp] theorem State.getV_setFB (f : FrameBuffer) (r : Nibble) : (s.setFB f).getV r = s.getV r := rfl
@[simp] theorem State.memRead_setFB (f : FrameBuffer) (n : Nat) : (s.setFB f).memRead n = s.memRead n := rfl
@[simp] theorem State.getV_setStack (l : List Word) (r : Nibble) : (s.setStack l).getV r = s.getV r := rfl
@[simp] theorem State.memRead_setStack (l : List Word) (n : Nat) : (s.setStack l).memRead n = s.memRead n := rfl
@[simp] theorem State.getV_advancePC (r : Nibble) : s.advancePC.getV r = s.getV r := rfl
@[simp] theorem State.memRead_advancePC (n : Nat) : s.advancePC.memRead n = s.memRead n := rfl
@[simp] theorem State.getV_raiseFatal (c : FatalCause) (a w : Word) (r : Nibble) : (s.raiseFatal c a w).getV r = s.getV r := rfl
@[simp] theorem State.memRead_raiseFatal (c : FatalCause) (a w : Word) (n : Nat) : (s.raiseFatal c a w).memRead n = s.memRead n := rfl
@[simp] theorem State.getV_sample (key : Option Byte) (rand : Byte) (r : Nibble) : (s.sample key rand).getV r = s.getV r := rfl
@[simp] theorem State.memRead_sample (key : Option Byte) (rand : Byte) (n : Nat) : (s.sample key rand).memRead n = s.memRead n := rfl

@[simp] theorem State.getV_takeRequest (r : Nibble) : s.takeRequest.getV r = s.getV r := by simp [State.getV]
@[simp] theorem State.memRead_takeRequest (n : Nat) : s.takeRequest.memRead n = s.memRead n := by simp [State.memRead]
@[simp] theorem State.getV_skipIf (c : Bool) (r : Nibble) : (s.skipIf c).getV r = s.getV r := by simp [State.getV]
@[simp] theorem State.memRead_skipIf (c : Bool) (n : Nat) : (s.skipIf c).memRead n = s.memRead n := by
  simp [State.memRead]
@[simp] theorem State.getV_tickStep (r : Nibble) : s.tickStep.getV r = s.getV r := by simp [State.getV]
@[simp] theorem State.memRead_tickStep (n : Nat) : s.tickStep.memRead n = s.memRead n := by simp [State.memRead]

/-- The fetched word depends on memory and PC alone. -/
theorem State.fetchWord_congr {s t : State} (hm : t.mem = s.mem) (hp : t.pc = s.pc) : t.fetchWord = s.fetchWord := by
  simp [State.fetchWord, State.memRead, hm, hp]

@[simp] theorem State.fetchWord_sample (key : Option Byte) (rand : Byte) :
    (s.sample key rand).fetchWord = s.fetchWord := rfl
@[simp] theorem State.fetchWord_takeRequest : s.takeRequest.fetchWord = s.fetchWord :=
  State.fetchWord_congr (by simp) (by simp)

/-- The high byte of the fetched word is the byte at PC (R30). -/
theorem State.fetchWord_high : s.fetchWord.extractLsb' 8 8 = s.memRead s.pc.toNat :=
  BitVec.extractLsb'_append_eq_left

/-- The low byte of the fetched word is the byte at PC + 1 (R30). -/
theorem State.fetchWord_low : s.fetchWord.extractLsb' 0 8 = s.memRead (s.pc.toNat + 1) :=
  BitVec.extractLsb'_append_eq_right

/-! General registers (R12). -/

/-- A register reads back what was written; every other register is unchanged. -/
theorem State.getV_setV (x r : Nibble) (b : Byte) : (s.setV x b).getV r = if r = x then b else s.getV r := by
  simp only [State.getV, State.setV, Vector.getElem_set]
  by_cases h : r = x
  · simp [h]
  · have : x.toNat ≠ r.toNat := fun e => h (BitVec.eq_of_toNat_eq e.symm)
    simp [h, this]

@[simp] theorem State.getV_setV_same (x : Nibble) (b : Byte) : (s.setV x b).getV x = b := by simp [State.getV_setV]

/-- The result and then the flag (R71): VF is the flag whatever x is; another x holds the result. -/
theorem State.getV_writeResultThenFlag (x r : Nibble) (b : Byte) (c : Bool) :
    (s.writeResultThenFlag x b c).getV r = if r = regF then flagByte c else if r = x then b else s.getV r := by
  simp [State.writeResultThenFlag, State.getV_setV]

/-! The call stack (R20, R21). -/

/-- A push onto a stack that is not full adds one entry on top and changes nothing else. -/
theorem State.push_of_not_full {s : State} (h : s.cfg.stackDepth ≠ some s.sp) (w : Word) :
    s.push w = some (s.setStack (s.stack ++ [w])) := by
  simp [State.push, State.stackFull, h]

/-- A push onto a full stack answers nothing (StackOverflow). -/
theorem State.push_of_full {s : State} (h : s.cfg.stackDepth = some s.sp) (w : Word) : s.push w = none := by
  simp [State.push, State.stackFull, h]

/-- A pop gives the last entry and leaves the entries below it. -/
theorem State.pop_of_append {s : State} {below : List Word} {w : Word} (h : s.stack = below ++ [w]) :
    s.pop = some (w, s.setStack below) := by
  simp [State.pop, h]

/-- A pop of an empty stack answers nothing (StackUnderflow). -/
theorem State.pop_of_empty {s : State} (h : s.stack = []) : s.pop = none := by
  simp [State.pop, h]

/-- Everything a pop can do. -/
theorem State.pop_cases : (s.stack = [] ∧ s.pop = none) ∨
    ∃ below w, s.stack = below ++ [w] ∧ s.pop = some (w, s.setStack below) := by
  rcases List.eq_nil_or_concat s.stack with h | ⟨below, w, h⟩
  · exact .inl ⟨h, State.pop_of_empty h⟩
  · exact .inr ⟨below, w, by simpa using h, State.pop_of_append (by simpa using h)⟩

/-! The framebuffer (R23). -/

/-- Toggling one pixel XORs it with 1 and leaves every other pixel alone. -/
theorem FrameBuffer.pixel_toggle (fb : FrameBuffer) (c c' : Column) (r r' : Row) :
    (fb.toggle c r).pixel c' r' = (fb.pixel c' r' ^^ (decide (c' = c) && decide (r' = r))) := by
  simp only [FrameBuffer.toggle, FrameBuffer.pixel, Vector.getElem_set]
  by_cases hr : r' = r
  · subst hr
    by_cases hc : c' = c
    · subst hc; simp
    · have : c.toNat ≠ c'.toNat := fun e => hc (BitVec.eq_of_toNat_eq e.symm)
      simp [hc, this]
  · have : r.toNat ≠ r'.toNat := fun e => hr (BitVec.eq_of_toNat_eq e.symm)
    simp [hr, this]

/-- Every pixel of the blank framebuffer is 0. -/
@[simp] theorem FrameBuffer.pixel_blank (c : Column) (r : Row) : FrameBuffer.blank.pixel c r = false := by
  simp [FrameBuffer.pixel, FrameBuffer.blank]

/-- Two framebuffers with the same pixels are equal. -/
theorem FrameBuffer.ext_pixel {f g : FrameBuffer} (h : ∀ c r, f.pixel c r = g.pixel c r) : f = g := by
  refine Vector.ext fun r hr => Vector.ext fun c hc => ?_
  have := h (BitVec.ofNat 6 c) (BitVec.ofNat 5 r)
  simpa [FrameBuffer.pixel, Nat.mod_eq_of_lt hr, Nat.mod_eq_of_lt hc] using this

/-! Timers, the wait step and the tick (R92, R107). -/

/-- One count down, as a number: the floor is 0. -/
theorem countDown_toNat (b : Byte) : (countDown b).toNat = b.toNat - 1 := by
  unfold countDown
  split
  · next h => simp [h]
  · next h =>
    have : b.toNat ≠ 0 := fun e => h (BitVec.eq_of_toNat_eq (by simpa using e))
    have := b.isLt
    have one : (1#8).toNat = 1 := rfl
    rw [BitVec.toNat_sub, one]
    omega

/-- A tick in Halted changes nothing (R101). -/
theorem State.tickStep_of_halted {s : State} {f : FaultRecord} (h : s.mode = .halted f) : s.tickStep = s := by
  simp [State.tickStep, h]

/-- A tick outside Halted counts both timers down and changes nothing else (R107). -/
theorem State.tickStep_of_not_halted {s : State} (h : ∀ f, s.mode ≠ .halted f) :
    s.tickStep = (s.setDT (countDown s.dt)).setST (countDown s.st) := by
  unfold State.tickStep
  split
  · next f hf => exact absurd hf (h f)
  all_goals rfl

/-- The wait step with a key loads it and runs again (R92). -/
theorem State.waitStep_of_key {s : State} {k : Byte} (h : s.key = some k) (x : Nibble) :
    s.waitStep x = (s.setV x k).setMode .running := by
  simp [State.waitStep, h]

/-- The wait step with no key changes nothing (R92). -/
theorem State.waitStep_of_none {s : State} (h : s.key = none) (x : Nibble) : s.waitStep x = s := by
  simp [State.waitStep, h]

/-! The block loops (R97, R98). -/

/-- The store loop writes memory alone. -/
theorem State.storeRegs_eq (base count : Nat) :
    s.storeRegs base count = { s with mem := (s.storeRegs base count).mem } := by
  unfold State.storeRegs
  induction count with
  | zero => rfl
  | succ n ih => rw [List.range_succ, List.foldl_append]; generalize List.foldl _ s _ = t at ih ⊢; rw [ih]; rfl

/-- The load loop writes the V registers alone. -/
theorem State.loadRegs_eq (base count : Nat) :
    s.loadRegs base count = { s with v := (s.loadRegs base count).v } := by
  unfold State.loadRegs
  induction count with
  | zero => rfl
  | succ n ih => rw [List.range_succ, List.foldl_append]; generalize List.foldl _ s _ = t at ih ⊢; rw [ih]; rfl

/-- The store loop, one register more. -/
theorem State.storeRegs_succ (base n : Nat) : s.storeRegs base (n + 1) =
    (s.storeRegs base n).memWrite (base + n) ((s.storeRegs base n).getV (BitVec.ofNat 4 n)) := by
  simp [State.storeRegs, List.range_succ]

/-- The load loop, one register more. -/
theorem State.loadRegs_succ (base n : Nat) : s.loadRegs base (n + 1) =
    (s.loadRegs base n).setV (BitVec.ofNat 4 n) ((s.loadRegs base n).memRead (base + n)) := by
  simp [State.loadRegs, List.range_succ]

/-- A store loop keeps every register. -/
@[simp] theorem State.getV_storeRegs (base count : Nat) (r : Nibble) : (s.storeRegs base count).getV r = s.getV r := by
  rw [State.storeRegs_eq]; rfl

/-- A load loop keeps memory. -/
@[simp] theorem State.memRead_loadRegs (base count a : Nat) : (s.loadRegs base count).memRead a = s.memRead a := by
  rw [State.loadRegs_eq]; rfl

/-- A store loop keeps the canonical form of memory. -/
theorem State.storeRegs_wf {s : State} (h : s.mem.wf = true) (base count : Nat) :
    (s.storeRegs base count).mem.wf = true := by
  induction count with
  | zero => exact h
  | succ n ih => rw [State.storeRegs_succ]; exact State.memWrite_wf ih _ _

end Sys2Proof.Machine
end

