-- ==== Sys2Proof/Laws/Step.lean ====
section
/-! SUPPORT. What one step can do, said once: which request it performs and what each request does to the state. -/

namespace Sys2Proof.Machine

/-- A step of an execute request in mode Running runs the fetched word. -/
theorem step_running {s : State} {key : Option Byte} {rand : Byte} (hr : s.nextRequest = .execute key rand)
    (hm : s.mode = .running) : step s = runInstruction (s.takeRequest.sample key rand) := by
  simp [step, hr, performRequest, execStep, hm]

/-- A step of an execute request in mode AwaitingKey is the wait step (R55, R92). -/
theorem step_awaiting {s : State} {key : Option Byte} {rand : Byte} {x : Nibble}
    (hr : s.nextRequest = .execute key rand) (hm : s.mode = .awaitingKey x) :
    step s = .next ((s.takeRequest.sample key rand).waitStep x) := by
  simp [step, hr, performRequest, execStep, hm]

/-- A step of an execute request in mode Halted changes nothing (R101). -/
theorem step_halted {s : State} {key : Option Byte} {rand : Byte} {f : FaultRecord}
    (hr : s.nextRequest = .execute key rand) (hm : s.mode = .halted f) : step s = .next s.takeRequest := by
  simp [step, hr, performRequest, execStep, hm]

/-- A step of a tick request (R107). -/
theorem step_tick {s : State} (hr : s.nextRequest = .tick) : step s = .next s.takeRequest.tickStep := by
  simp [step, hr, performRequest]

/-- A step of a reset request (R120). -/
theorem step_reset {s : State} (hr : s.nextRequest = .reset) : step s = .next s.takeRequest.resetCore := by
  simp [step, hr, performRequest]

/-- A step of a load request while the loader window is open (R114). -/
theorem step_load_open {s : State} {a : Addr} {d : Byte} (hr : s.nextRequest = .load a d) (h : s.loadOpen = true) :
    step s = .next (s.takeRequest.memWrite a.toNat d) := by
  simp [step, hr, performRequest, loaderWrite, h]

/-- A step of a load request after the first execute step (log 8). -/
theorem step_load_closed {s : State} {a : Addr} {d : Byte} (hr : s.nextRequest = .load a d) (h : s.loadOpen = false) :
    step s = .refused .loadAfterFirstStep := by
  simp [step, hr, performRequest, loaderWrite, h]

/-- Everything a step that answers a next state can have done. -/
theorem step_cases {s t : State} (h : step s = .next t) :
    (∃ key rand, s.nextRequest = .execute key rand ∧ s.mode = .running ∧
      runInstruction (s.takeRequest.sample key rand) = .next t) ∨
    (∃ key rand x, s.nextRequest = .execute key rand ∧ s.mode = .awaitingKey x ∧
      t = (s.takeRequest.sample key rand).waitStep x) ∨
    (∃ key rand f, s.nextRequest = .execute key rand ∧ s.mode = .halted f ∧ t = s.takeRequest) ∨
    (s.nextRequest = .tick ∧ t = s.takeRequest.tickStep) ∨
    (s.nextRequest = .reset ∧ t = s.takeRequest.resetCore) ∨
    (∃ a d, s.nextRequest = .load a d ∧ s.loadOpen = true ∧ t = s.takeRequest.memWrite a.toNat d) := by
  match hr : s.nextRequest with
  | .execute key rand =>
    match hm : s.mode with
    | .running => rw [step_running hr hm] at h; exact .inl ⟨key, rand, rfl, rfl, h⟩
    | .awaitingKey x => rw [step_awaiting hr hm] at h; cases h; exact .inr (.inl ⟨key, rand, x, rfl, rfl, rfl⟩)
    | .halted f => rw [step_halted hr hm] at h; cases h; exact .inr (.inr (.inl ⟨key, rand, f, rfl, rfl, rfl⟩))
  | .tick => rw [step_tick hr] at h; cases h; exact .inr (.inr (.inr (.inl ⟨rfl, rfl⟩)))
  | .reset => rw [step_reset hr] at h; cases h; exact .inr (.inr (.inr (.inr (.inl ⟨rfl, rfl⟩))))
  | .load a d =>
    match ho : s.loadOpen with
    | true =>
      rw [step_load_open hr ho] at h; cases h
      exact .inr (.inr (.inr (.inr (.inr ⟨a, d, rfl, rfl, rfl⟩))))
    | false => rw [step_load_closed hr ho] at h; cases h

/-- Running the fetched word: an instruction is executed past the fetch's advance; an unknown word halts. -/
theorem runInstruction_instr {s : State} {i : Instr} (h : decode s.fetchWord = .instr i) :
    runInstruction s = exec i s.advancePC := by
  simp [runInstruction, h]

/-- An unknown word raises UnknownInstruction (R51, R54). -/
theorem runInstruction_unknown {s : State} {w : Word} (h : decode s.fetchWord = .unknown w) :
    runInstruction s = .next (s.advancePC.raiseFatal .unknownInstruction s.pc w) := by
  simp [runInstruction, h]

/-- While an instruction executes, A is the address it was fetched from (R17). -/
@[simp] theorem State.instrAddr_advancePC (s : State) : s.advancePC.instrAddr = s.pc := by
  simp [State.instrAddr, State.advancePC, State.setPC]

end Sys2Proof.Machine
end

