-- ==== Sys2Proof/Laws/Frame.lean ====
section
/-! SUPPORT. Frames: what each shared operation leaves alone, said as `SameOutside`, and how frames compose. -/

namespace Sys2Proof.Machine

/-- A state is itself. -/
theorem SameOutside.rfl' (parts : List Part) (s : State) : SameOutside parts s s := by
  constructor <;> intros <;> rfl

/-- More parts may be listed. -/
theorem SameOutside.mono {p q : List Part} {s t : State} (h : SameOutside p s t) (hpq : ∀ x, x ∈ p → x ∈ q) :
    SameOutside q s t where
  v x hx := h.v x (fun hp => hx (hpq _ hp))
  i hx := h.i (fun hp => hx (hpq _ hp))
  pc hx := h.pc (fun hp => hx (hpq _ hp))
  stack hx := h.stack (fun hp => hx (hpq _ hp))
  dt hx := h.dt (fun hp => hx (hpq _ hp))
  st hx := h.st (fun hp => hx (hpq _ hp))
  pixel c r hs hx := h.pixel c r (fun hp => hs (hpq _ hp)) (fun hp => hx (hpq _ hp))
  mode hx := h.mode (fun hp => hx (hpq _ hp))
  byte a hx := h.byte a (fun hp => hx (hpq _ hp))
  loadOpen := h.loadOpen
  cfg := h.cfg
  key := h.key
  rand := h.rand
  script := h.script
  drawn := h.drawn

/-- Two changes one after the other stay within the parts of both. -/
theorem SameOutside.trans {p q : List Part} {s t u : State} (h : SameOutside p s t) (k : SameOutside q t u) :
    SameOutside (p ++ q) s u := by
  have h' := h.mono (q := p ++ q) (by simp +contextual)
  have k' := k.mono (q := p ++ q) (by simp +contextual)
  exact {
    v := fun x hx => (k'.v x hx).trans (h'.v x hx)
    i := fun hx => (k'.i hx).trans (h'.i hx)
    pc := fun hx => (k'.pc hx).trans (h'.pc hx)
    stack := fun hx => (k'.stack hx).trans (h'.stack hx)
    dt := fun hx => (k'.dt hx).trans (h'.dt hx)
    st := fun hx => (k'.st hx).trans (h'.st hx)
    pixel := fun c r hs hx => (k'.pixel c r hs hx).trans (h'.pixel c r hs hx)
    mode := fun hx => (k'.mode hx).trans (h'.mode hx)
    byte := fun a hx => (k'.byte a hx).trans (h'.byte a hx)
    loadOpen := k.loadOpen.trans h.loadOpen
    cfg := k.cfg.trans h.cfg
    key := k.key.trans h.key
    rand := k.rand.trans h.rand
    script := k.script.trans h.script
    drawn := k.drawn.trans h.drawn }

/-- Two changes within one list of parts stay within it. -/
theorem SameOutside.comp {p : List Part} {s t u : State} (h : SameOutside p s t) (k : SameOutside p t u) :
    SameOutside p s u :=
  (h.trans k).mono (by simp)

theorem State.setV_frame (s : State) (x : Nibble) (b : Byte) : SameOutside [.v x] s (s.setV x b) := by
  constructor <;> intros <;> simp_all [State.getV_setV]

theorem State.setI_frame (s : State) (w : Word) : SameOutside [.i] s (s.setI w) := by
  constructor <;> intros <;> simp_all

theorem State.setPC_frame (s : State) (w : Word) : SameOutside [.pc] s (s.setPC w) := by
  constructor <;> intros <;> simp_all

theorem State.advancePC_frame (s : State) : SameOutside [.pc] s s.advancePC := State.setPC_frame s _

theorem State.skipIf_frame (s : State) (c : Bool) : SameOutside [.pc] s (s.skipIf c) := by
  constructor <;> intros <;> simp_all

theorem State.setDT_frame (s : State) (b : Byte) : SameOutside [.dt] s (s.setDT b) := by
  constructor <;> intros <;> simp_all

theorem State.setST_frame (s : State) (b : Byte) : SameOutside [.st] s (s.setST b) := by
  constructor <;> intros <;> simp_all

theorem State.setMode_frame (s : State) (m : Mode) : SameOutside [.mode] s (s.setMode m) := by
  constructor <;> intros <;> simp_all

theorem State.raiseFatal_frame (s : State) (c : FatalCause) (a w : Word) :
    SameOutside [.mode] s (s.raiseFatal c a w) := State.setMode_frame s _

theorem State.setFB_frame (s : State) (f : FrameBuffer) : SameOutside [.screen] s (s.setFB f) := by
  constructor <;> intros <;> simp_all

theorem State.setStack_frame (s : State) (l : List Word) : SameOutside [.stack] s (s.setStack l) := by
  constructor <;> intros <;> simp_all

theorem State.memWrite_frame (s : State) (a : Nat) (b : Byte) :
    SameOutside [.byte (memAddr a)] s (s.memWrite a b) := by
  constructor <;> intros <;> simp_all [State.memRead_memWrite]
  grind

/-- The result and the flag change Vx and VF alone (R71). -/
theorem State.writeResultThenFlag_frame (s : State) (x : Nibble) (b : Byte) (c : Bool) :
    SameOutside [.v x, .v regF] s (s.writeResultThenFlag x b c) :=
  (State.setV_frame s x b).trans (State.setV_frame _ regF _)

theorem State.tickStep_frame (s : State) : SameOutside [.dt, .st] s s.tickStep := by
  unfold State.tickStep
  split
  · exact SameOutside.rfl' _ s
  all_goals exact (State.setDT_frame s _).trans (State.setST_frame _ _)

theorem State.waitStep_frame (s : State) (x : Nibble) : SameOutside [.v x, .mode] s (s.waitStep x) := by
  unfold State.waitStep
  split
  · exact (State.setV_frame s x _).trans (State.setMode_frame _ _)
  · exact SameOutside.rfl' _ s

/-- The store loop changes the block's bytes alone (R97). -/
theorem State.storeRegs_frame (s : State) (base count : Nat) :
    SameOutside ((List.range count).map fun k => .byte (memAddr (base + k))) s (s.storeRegs base count) := by
  induction count with
  | zero => exact SameOutside.rfl' _ s
  | succ n ih =>
    rw [State.storeRegs_succ, List.range_succ, List.map_append]
    exact ih.trans (State.memWrite_frame _ _ _)

/-- The load loop changes the block's registers alone (R98). -/
theorem State.loadRegs_frame (s : State) (base count : Nat) :
    SameOutside ((List.range count).map fun k => .v (BitVec.ofNat 4 k)) s (s.loadRegs base count) := by
  induction count with
  | zero => exact SameOutside.rfl' _ s
  | succ n ih =>
    rw [State.loadRegs_succ, List.range_succ, List.map_append]
    exact ih.trans (State.setV_frame _ _ _)

end Sys2Proof.Machine
end

