-- ==== Sys2Proof/Laws/Block.lean ====
section
/-! SUPPORT. What the block loops, the index they leave and a flag byte hold, said once (spec/43_alu.md R81,
spec/49_bcd_block.md R97, R98). -/

namespace Sys2Proof.Machine

variable (s : State)

/-- The registers V0 to Vx are those of an index up to x. -/
theorem mem_vUpTo (x r : Nibble) : r ∈ vUpTo x ↔ r.toNat ≤ x.toNat := by
  have hx := x.isLt
  simp only [vUpTo, List.mem_map, List.mem_range]
  constructor
  · rintro ⟨k, hk, rfl⟩
    simp only [BitVec.toNat_ofNat]
    omega
  · exact fun h => ⟨r.toNat, by omega, by simp⟩

/-- The store loop leaves register k at its offset k (R97): no two offsets of a block meet. -/
theorem State.memRead_storeRegs {base count k : Nat} (hc : count ≤ 16) (hk : k < count) :
    (s.storeRegs base count).memRead (base + k) = s.getV (BitVec.ofNat 4 k) := by
  induction count with
  | zero => omega
  | succ n ih =>
    have meet := memAddr_add_inj (base := base) (j := n) (k := k) (by rw [memSize_eq]; omega)
      (by rw [memSize_eq]; omega)
    rw [State.storeRegs_succ, State.memRead_memWrite]
    by_cases h : n = k
    · simp [h]
    · rw [if_neg (by rw [meet]; exact h), ih (by omega) (by omega)]

/-- The load loop fills the registers of the block from their offsets and leaves the others (R98). -/
theorem State.getV_loadRegs {count : Nat} (hc : count ≤ 16) (base : Nat) (r : Nibble) :
    (s.loadRegs base count).getV r = if r.toNat < count then s.memRead (base + r.toNat) else s.getV r := by
  induction count with
  | zero => simp [State.loadRegs]
  | succ n ih =>
    rw [State.loadRegs_succ, State.getV_setV, ih (by omega)]
    by_cases h : r = BitVec.ofNat 4 n
    · have hr : r.toNat = n := by rw [h]; simp only [BitVec.toNat_ofNat]; omega
      simp [← hr]
    · have hr : r.toNat ≠ n := by rintro rfl; simp at h
      have : r.toNat < n + 1 ↔ r.toNat < n := by omega
      simp [h, this]

/-- The index a block transfer leaves, as a number. -/
theorem State.blockIndex_toNat (x : Nibble) : (s.blockIndex x).toNat =
    if s.cfg.loadStoreIncI then (s.i.toNat + x.toNat + 1) % 65536 else s.i.toNat := by
  have hx := x.isLt
  unfold State.blockIndex
  split
  · simp only [BitVec.toNat_add, BitVec.toNat_ofNat]
    omega
  · rfl

/-- A flag byte is 1 exactly when its condition holds. -/
theorem flagByte_eq_one (c : Bool) : flagByte c = 0x01#8 ↔ c = true := by cases c <;> simp [flagByte]

/-- A flag byte is 0 exactly when its condition fails. -/
theorem flagByte_eq_zero (c : Bool) : flagByte c = 0x00#8 ↔ c = false := by cases c <;> simp [flagByte]

end Sys2Proof.Machine
end

