-- ==== Sys2Proof/Laws/Decode.lean ====
section
/-! SUPPORT. Fields and formats: each field of a formatted word is what was put there (spec/30_encoding.md R45, R46),
and a word is put together from its fields. -/

namespace Sys2Proof

@[simp] theorem opField_formatN (op : Nibble) (nnn : Addr) : opField (formatN op nnn) = op := by
  simp only [opField, formatN]
  refine BitVec.eq_of_getLsbD_eq fun i hi => ?_
  rw [BitVec.getLsbD_extractLsb', BitVec.getLsbD_append]
  simp [hi]

@[simp] theorem nnnField_formatN (op : Nibble) (nnn : Addr) : nnnField (formatN op nnn) = nnn := by
  simp only [nnnField, formatN]
  ext i hi
  simp
  grind

@[simp] theorem opField_formatXKK (op x : Nibble) (kk : Byte) : opField (formatXKK op x kk) = op := by
  simp only [opField, formatXKK]
  ext i hi
  simp
  grind

@[simp] theorem xField_formatXKK (op x : Nibble) (kk : Byte) : xField (formatXKK op x kk) = x := by
  simp only [xField, formatXKK]
  ext i hi
  simp
  grind

@[simp] theorem kkField_formatXKK (op x : Nibble) (kk : Byte) : kkField (formatXKK op x kk) = kk := by
  simp only [kkField, formatXKK]
  ext i hi
  simp
  grind

@[simp] theorem opField_formatXY (op x y n : Nibble) : opField (formatXY op x y n) = op := by
  simp only [opField, formatXY]
  ext i hi
  simp
  grind

@[simp] theorem xField_formatXY (op x y n : Nibble) : xField (formatXY op x y n) = x := by
  simp only [xField, formatXY]
  ext i hi
  simp
  grind

@[simp] theorem yField_formatXY (op x y n : Nibble) : yField (formatXY op x y n) = y := by
  simp only [yField, formatXY]
  ext i hi
  simp
  grind

@[simp] theorem nField_formatXY (op x y n : Nibble) : nField (formatXY op x y n) = n := by
  simp only [nField, formatXY]
  ext i hi
  simp
  grind

/-- A word is its op and nnn fields (R45). -/
theorem formatN_fields (w : Word) : formatN (opField w) (nnnField w) = w := by
  simp only [opField, nnnField, formatN]
  refine BitVec.eq_of_getLsbD_eq fun i hi => ?_
  change (BitVec.extractLsb' 12 4 w ++ BitVec.extractLsb' 0 12 w : BitVec (4 + 12)).getLsbD i = _
  simp
  grind

/-- A word is its op, x and kk fields (R45). -/
theorem formatXKK_fields (w : Word) : formatXKK (opField w) (xField w) (kkField w) = w := by
  simp only [opField, xField, kkField, formatXKK]
  refine BitVec.eq_of_getLsbD_eq fun i hi => ?_
  change (BitVec.extractLsb' 12 4 w ++ BitVec.extractLsb' 8 4 w ++ BitVec.extractLsb' 0 8 w :
    BitVec (4 + 4 + 8)).getLsbD i = _
  simp
  grind

/-- A word is its four nibbles (R45). -/
theorem formatXY_fields (w : Word) : formatXY (opField w) (xField w) (yField w) (nField w) = w := by
  simp only [opField, xField, yField, nField, formatXY]
  refine BitVec.eq_of_getLsbD_eq fun i hi => ?_
  change (BitVec.extractLsb' 12 4 w ++ BitVec.extractLsb' 8 4 w ++ BitVec.extractLsb' 4 4 w ++
    BitVec.extractLsb' 0 4 w : BitVec (4 + 4 + 4 + 4)).getLsbD i = _
  simp
  grind

/-- The mask of formats N and XKK keeps op (R49). -/
theorem and_opMask (w : Word) : w &&& 0xF000#16 = formatN (opField w) 0x000#12 := by
  rw [← formatN_fields (w &&& 0xF000#16)]
  congr 1
  · simp only [opField]
    ext i hi
    simp
    interval_cases i <;> simp
  · simp only [nnnField]
    ext i hi
    simp
    interval_cases i <;> simp

/-- The mask of format XY keeps op and n (R49). -/
theorem and_op_nMask (w : Word) : w &&& 0xF00F#16 = formatXY (opField w) 0x0#4 0x0#4 (nField w) := by
  rw [← formatXY_fields (w &&& 0xF00F#16)]
  congr 1
  · simp only [opField]
    ext i hi
    simp
    interval_cases i <;> simp
  · simp only [xField]
    ext i hi
    simp
    interval_cases i <;> simp
  · simp only [yField]
    ext i hi
    simp
    interval_cases i <;> simp
  · simp only [nField]
    ext i hi
    simp
    interval_cases i <;> simp

/-- The mask of format X keeps op and kk (R49). -/
theorem and_op_kkMask (w : Word) : w &&& 0xF0FF#16 = formatXKK (opField w) 0x0#4 (kkField w) := by
  rw [← formatXKK_fields (w &&& 0xF0FF#16)]
  congr 1
  · simp only [opField]
    ext i hi
    simp
    interval_cases i <;> simp
  · simp only [xField]
    ext i hi
    simp
    interval_cases i <;> simp
  · simp only [kkField]
    ext i hi
    simp
    interval_cases i <;> simp

/-- The bytes of a word put together are the word (R30). -/
@[simp] theorem wordOfBytes_bytesOfWord (w : Word) : wordOfBytes (w.extractLsb' 8 8) (w.extractLsb' 0 8) = w := by
  simp only [wordOfBytes]
  refine BitVec.eq_of_getLsbD_eq fun i hi => ?_
  change (BitVec.extractLsb' 8 8 w ++ BitVec.extractLsb' 0 8 w : BitVec (8 + 8)).getLsbD i = _
  simp
  grind

end Sys2Proof
end

