-- ==== Sys2Proof/Laws/Display.lean ====
section
/-! SUPPORT. What drawing one sprite row and one sprite does to a canvas, said once (spec/46_display.md R87): every
covered pixel is toggled once, because eight columns and fifteen rows do not wrap onto themselves. -/

namespace Sys2Proof.Machine

/-- The pixels the first `m` bits of a row byte cover. -/
def RowCovers (bits : Byte) (cx : Column) (py : Row) (m : Nat) (c : Column) (r : Row) : Prop :=
  ∃ j, j < m ∧ c = cx + BitVec.ofNat 6 j ∧ r = py ∧ bits.getLsbD (7 - j) = true

/-- The pixels the first `n` rows of the sprite at I cover. -/
def RowsCover (s : State) (cx : Column) (cy : Row) (n : Nat) (c : Column) (r : Row) : Prop :=
  ∃ k, k < n ∧ RowCovers (s.memRead (s.i.toNat + k)) cx (cy + BitVec.ofNat 5 k) 8 c r

/-- A canvas after the pixels of `covered`, each distinct from the others, have been plotted on another. -/
structure Plotted (covered : Column → Row → Prop) (before after : Canvas) : Prop where
  on : ∀ c r, covered c r → after.fb.pixel c r = !before.fb.pixel c r
  off : ∀ c r, ¬covered c r → after.fb.pixel c r = before.fb.pixel c r
  hit : after.hit = true ↔ before.hit = true ∨ ∃ c r, covered c r ∧ before.fb.pixel c r = true

/-- Nothing plotted. -/
theorem Plotted.none {covered : Column → Row → Prop} (h : ∀ c r, ¬covered c r) (cv : Canvas) :
    Plotted covered cv cv :=
  ⟨fun c r hc => absurd hc (h c r), fun _ _ _ => rfl, by simp [h]⟩

/-- One pixel plotted. -/
theorem Canvas.plot_spec (cv : Canvas) (c : Column) (r : Row) :
    Plotted (fun c' r' => c' = c ∧ r' = r) cv (cv.plot c r) where
  on c' r' h := by simp [Canvas.plot, FrameBuffer.pixel_toggle, h]
  off c' r' h := by
    have : (decide (c' = c) && decide (r' = r)) = false := by simpa using h
    simp [Canvas.plot, FrameBuffer.pixel_toggle, this]
  hit := by simp [Canvas.plot]

/-- Plotting two sets of pixels that do not meet plots their union. -/
theorem Plotted.append {p q : Column → Row → Prop} {a b d : Canvas} (hp : Plotted p a b) (hq : Plotted q b d)
    (apart : ∀ c r, p c r → ¬q c r) : Plotted (fun c r => p c r ∨ q c r) a d where
  on c r h := by
    rcases h with h | h
    · rw [hq.off c r (apart c r h), hp.on c r h]
    · rw [hq.on c r h, hp.off c r (fun k => apart c r k h)]
  off c r h := by rw [hq.off c r (fun k => h (.inr k)), hp.off c r (fun k => h (.inl k))]
  hit := by
    rw [hq.hit, hp.hit]
    constructor
    · rintro ((h | ⟨c, r, h, hb⟩) | ⟨c, r, h, hb⟩)
      · exact .inl h
      · exact .inr ⟨c, r, .inl h, hb⟩
      · exact .inr ⟨c, r, .inr h, by rwa [hp.off c r (fun k => apart c r k h)] at hb⟩
    · rintro (h | ⟨c, r, h | h, hb⟩)
      · exact .inl (.inl h)
      · exact .inl (.inr ⟨c, r, h, hb⟩)
      · exact .inr ⟨c, r, h, by rwa [hp.off c r (fun k => apart c r k h)]⟩

/-- The same pixels under another description. -/
theorem Plotted.congr {p q : Column → Row → Prop} {a b : Canvas} (h : Plotted p a b) (e : ∀ c r, q c r ↔ p c r) :
    Plotted q a b :=
  ⟨fun c r k => h.on c r ((e c r).1 k), fun c r k => h.off c r (fun m => k ((e c r).2 m)), by simp only [e, h.hit]⟩

/-- The first `m` bits of a row byte plotted. -/
theorem Canvas.plotBits_spec (cv : Canvas) (bits : Byte) (cx : Column) (py : Row) {m : Nat} (hm : m ≤ 8) :
    Plotted (RowCovers bits cx py m) cv ((List.range m).foldl
      (fun acc c => if bits.getLsbD (7 - c) then acc.plot (cx + BitVec.ofNat 6 c) py else acc) cv) := by
  induction m with
  | zero => exact .none (by simp [RowCovers]) cv
  | succ m ih =>
    have ih := ih (by omega)
    rw [List.range_succ, List.foldl_append]
    generalize (List.range m).foldl _ cv = out at ih ⊢
    have more : ∀ c r, RowCovers bits cx py (m + 1) c r ↔ RowCovers bits cx py m c r ∨
        (c = cx + BitVec.ofNat 6 m ∧ r = py) ∧ bits.getLsbD (7 - m) = true := by
      intro c r
      constructor
      · rintro ⟨j, hj, hc, hr, hb⟩
        rcases Nat.lt_succ_iff_lt_or_eq.1 hj with hj | rfl
        · exact .inl ⟨j, hj, hc, hr, hb⟩
        · exact .inr ⟨⟨hc, hr⟩, hb⟩
      · rintro (⟨j, hj, h⟩ | ⟨⟨hc, hr⟩, hb⟩)
        · exact ⟨j, by omega, h⟩
        · exact ⟨m, by omega, hc, hr, hb⟩
    by_cases hb : bits.getLsbD (7 - m) = true
    · simp only [List.foldl_cons, List.foldl_nil, hb, if_true]
      refine (ih.append (Canvas.plot_spec out _ py) ?_).congr (by simp [more, hb])
      rintro c r ⟨j, hj, hc, _⟩ ⟨hc', _⟩
      have := congrArg BitVec.toNat ((BitVec.add_right_inj cx).1 (hc.symm.trans hc'))
      simp only [BitVec.toNat_ofNat] at this
      omega
    · simp only [List.foldl_cons, List.foldl_nil, hb]
      exact ih.congr (by simp [more, hb])

/-- A whole sprite row plotted. -/
theorem Canvas.plotRow_spec (cv : Canvas) (bits : Byte) (cx : Column) (py : Row) :
    Plotted (RowCovers bits cx py 8) cv (cv.plotRow bits cx py) :=
  Canvas.plotBits_spec cv bits cx py (by omega)

/-- A whole sprite of at most 16 rows plotted on the screen. -/
theorem State.plotSprite_spec (s : State) (cx : Column) (cy : Row) {n : Nat} (hn : n ≤ 16) :
    Plotted (RowsCover s cx cy n) { fb := s.fb, hit := false } (s.plotSprite cx cy n) := by
  unfold State.plotSprite
  induction n with
  | zero => exact .none (by simp [RowsCover]) _
  | succ n ih =>
    have ih := ih (by omega)
    rw [List.range_succ, List.foldl_append]
    generalize (List.range n).foldl _ _ = out at ih ⊢
    refine (ih.append (Canvas.plotRow_spec out _ cx _) ?_).congr ?_
    · rintro c r ⟨k, hk, _, _, _, hr, _⟩ ⟨_, _, _, hr', _⟩
      have := congrArg BitVec.toNat ((BitVec.add_right_inj cy).1 (hr.symm.trans hr'))
      simp only [BitVec.toNat_ofNat] at this
      omega
    · intro c r
      constructor
      · rintro ⟨k, hk, h⟩
        rcases Nat.lt_succ_iff_lt_or_eq.1 hk with hk | rfl
        · exact .inl ⟨k, hk, h⟩
        · exact .inr h
      · rintro (⟨k, hk, h⟩ | h)
        · exact ⟨k, by omega, h⟩
        · exact ⟨n, by omega, h⟩

end Sys2Proof.Machine
end

