-- ==== Sys2Proof/Laws/Exec.lean ====
section
/-! SUPPORT. What the three instructions that can raise a fatal condition do, case by case, and what any instruction
can do to the mode, said once. Every other instruction is one update of the state by its definition. -/

namespace Sys2Proof.Machine

variable {s t : State}

/-- Everything SYS can do (R63). -/
theorem exec_sys_cases {nnn : Addr} (h : exec (.sys nnn) s = .next t) :
    (s.cfg.sysMode = .fault ∧ t = s.raiseFatal .sysUnsupported s.instrAddr (encode (.sys nnn))) ∨
      (s.cfg.sysMode = .nop ∧ t = s) := by
  simp only [exec, execSys] at h
  split at h <;> cases h
  · next hm => exact .inl ⟨hm, rfl⟩
  · next hm => exact .inr ⟨hm, rfl⟩

/-- Everything RET can do (R62). -/
theorem exec_ret_cases (h : exec .ret s = .next t) :
    (s.stack = [] ∧ t = s.raiseFatal .stackUnderflow s.instrAddr (encode .ret)) ∨
      ∃ below w, s.stack = below ++ [w] ∧ t = (s.setStack below).setPC w := by
  rcases s.pop_cases with ⟨hs, hp⟩ | ⟨below, w, hs, hp⟩ <;> simp only [exec, execRet, hp] at h <;> cases h
  · exact .inl ⟨hs, rfl⟩
  · exact .inr ⟨below, w, hs, rfl⟩

/-- Everything CALL can do (R61). -/
theorem exec_call_cases {nnn : Addr} (h : exec (.call nnn) s = .next t) :
    (s.cfg.stackDepth = some s.sp ∧ t = s.raiseFatal .stackOverflow s.instrAddr (encode (.call nnn))) ∨
      (s.cfg.stackDepth ≠ some s.sp ∧ t = (s.setStack (s.stack ++ [s.pc])).setPC (zextAddr nnn)) := by
  by_cases full : s.cfg.stackDepth = some s.sp
  · simp only [exec, execCall, State.push_of_full full] at h
    cases h
    exact .inl ⟨full, rfl⟩
  · simp only [exec, execCall, State.push_of_not_full full] at h
    cases h
    exact .inr ⟨full, rfl⟩

/-- Everything an instruction can do to the mode: keep it, wait for a key, or raise one of three fatal conditions
and do nothing else. -/
theorem exec_mode_cases {i : Instr} (h : exec i s = .next t) :
    t.mode = s.mode ∨ (∃ x, i = .ldVxK x ∧ t.mode = .awaitingKey x) ∨
      (∃ nnn, i = .sys nnn ∧ s.cfg.sysMode = .fault ∧
        t = s.raiseFatal .sysUnsupported s.instrAddr (encode i)) ∨
      (i = .ret ∧ s.stack = [] ∧ t = s.raiseFatal .stackUnderflow s.instrAddr (encode i)) ∨
      (∃ nnn, i = .call nnn ∧ s.cfg.stackDepth = some s.sp ∧
        t = s.raiseFatal .stackOverflow s.instrAddr (encode i)) := by
  cases i
  case sys nnn =>
    rcases exec_sys_cases h with ⟨hm, ht⟩ | ⟨_, ht⟩
    · exact .inr (.inr (.inl ⟨nnn, rfl, hm, ht⟩))
    · exact .inl (by rw [ht])
  case ret =>
    rcases exec_ret_cases h with ⟨hs, ht⟩ | ⟨_, _, _, ht⟩
    · exact .inr (.inr (.inr (.inl ⟨rfl, hs, ht⟩)))
    · exact .inl (by rw [ht]; rfl)
  case call nnn =>
    rcases exec_call_cases h with ⟨hd, ht⟩ | ⟨_, ht⟩
    · exact .inr (.inr (.inr (.inr ⟨nnn, rfl, hd, ht⟩)))
    · exact .inl (by rw [ht]; rfl)
  case ldVxK x => simp only [exec] at h; cases h; exact .inr (.inl ⟨x, rfl, rfl⟩)
  case stRegs x => simp only [exec] at h; cases h; exact .inl (by rw [State.setI_mode, State.storeRegs_eq])
  case ldRegs x => simp only [exec] at h; cases h; exact .inl (by rw [State.setI_mode, State.loadRegs_eq])
  all_goals simp only [exec] at h; cases h
  all_goals exact .inl (by simp [State.writeResultThenFlag])

end Sys2Proof.Machine
end

