-- ==== Sys2Proof/Laws/PerInstr.lean ====
section
/-! SUPPORT. Facts about every instruction as syntax, one lemma per constructor. -/

namespace Sys2Proof.Laws.EncodingFixedBits

/-- The encoded word meets the mask and match of its row of the opcode map (spec/30_encoding.md R49). -/
def Statement (i : Instr) : Prop := encode i &&& opcodeMask i = opcodeMatch i

theorem sys (nnn : Addr) : Statement (.sys nnn) := by
  simp [Statement, encode, opcodeMask, opcodeMatch, and_opMask]
  rfl

theorem cls : Statement .cls := rfl

theorem ret : Statement .ret := rfl

theorem jp (nnn : Addr) : Statement (.jp nnn) := by
  simp [Statement, encode, opcodeMask, opcodeMatch, and_opMask]
  rfl

theorem call (nnn : Addr) : Statement (.call nnn) := by
  simp [Statement, encode, opcodeMask, opcodeMatch, and_opMask]
  rfl

theorem seByte (x : Nibble) (kk : Byte) : Statement (.seByte x kk) := by
  simp [Statement, encode, opcodeMask, opcodeMatch, and_opMask]
  rfl

theorem sneByte (x : Nibble) (kk : Byte) : Statement (.sneByte x kk) := by
  simp [Statement, encode, opcodeMask, opcodeMatch, and_opMask]
  rfl

theorem seReg (x y : Nibble) : Statement (.seReg x y) := by
  simp [Statement, encode, opcodeMask, opcodeMatch, and_op_nMask]
  rfl

theorem ldByte (x : Nibble) (kk : Byte) : Statement (.ldByte x kk) := by
  simp [Statement, encode, opcodeMask, opcodeMatch, and_opMask]
  rfl

theorem addByte (x : Nibble) (kk : Byte) : Statement (.addByte x kk) := by
  simp [Statement, encode, opcodeMask, opcodeMatch, and_opMask]
  rfl

theorem ldReg (x y : Nibble) : Statement (.ldReg x y) := by
  simp [Statement, encode, opcodeMask, opcodeMatch, and_op_nMask]
  rfl

theorem orReg (x y : Nibble) : Statement (.orReg x y) := by
  simp [Statement, encode, opcodeMask, opcodeMatch, and_op_nMask]
  rfl

theorem andReg (x y : Nibble) : Statement (.andReg x y) := by
  simp [Statement, encode, opcodeMask, opcodeMatch, and_op_nMask]
  rfl

theorem xorReg (x y : Nibble) : Statement (.xorReg x y) := by
  simp [Statement, encode, opcodeMask, opcodeMatch, and_op_nMask]
  rfl

theorem addReg (x y : Nibble) : Statement (.addReg x y) := by
  simp [Statement, encode, opcodeMask, opcodeMatch, and_op_nMask]
  rfl

theorem subReg (x y : Nibble) : Statement (.subReg x y) := by
  simp [Statement, encode, opcodeMask, opcodeMatch, and_op_nMask]
  rfl

theorem shr (x y : Nibble) : Statement (.shr x y) := by
  simp [Statement, encode, opcodeMask, opcodeMatch, and_op_nMask]
  rfl

theorem subn (x y : Nibble) : Statement (.subn x y) := by
  simp [Statement, encode, opcodeMask, opcodeMatch, and_op_nMask]
  rfl

theorem shl (x y : Nibble) : Statement (.shl x y) := by
  simp [Statement, encode, opcodeMask, opcodeMatch, and_op_nMask]
  rfl

theorem sneReg (x y : Nibble) : Statement (.sneReg x y) := by
  simp [Statement, encode, opcodeMask, opcodeMatch, and_op_nMask]
  rfl

theorem ldI (nnn : Addr) : Statement (.ldI nnn) := by
  simp [Statement, encode, opcodeMask, opcodeMatch, and_opMask]
  rfl

theorem jpV0 (nnn : Addr) : Statement (.jpV0 nnn) := by
  simp [Statement, encode, opcodeMask, opcodeMatch, and_opMask]
  rfl

theorem rnd (x : Nibble) (kk : Byte) : Statement (.rnd x kk) := by
  simp [Statement, encode, opcodeMask, opcodeMatch, and_opMask]
  rfl

theorem drw (x y n : Nibble) : Statement (.drw x y n) := by
  simp [Statement, encode, opcodeMask, opcodeMatch, and_opMask]
  rfl

theorem skp (x : Nibble) : Statement (.skp x) := by
  simp [Statement, encode, opcodeMask, opcodeMatch, and_op_kkMask]
  rfl

theorem sknp (x : Nibble) : Statement (.sknp x) := by
  simp [Statement, encode, opcodeMask, opcodeMatch, and_op_kkMask]
  rfl

theorem ldVxDT (x : Nibble) : Statement (.ldVxDT x) := by
  simp [Statement, encode, opcodeMask, opcodeMatch, and_op_kkMask]
  rfl

theorem ldVxK (x : Nibble) : Statement (.ldVxK x) := by
  simp [Statement, encode, opcodeMask, opcodeMatch, and_op_kkMask]
  rfl

theorem ldDTVx (x : Nibble) : Statement (.ldDTVx x) := by
  simp [Statement, encode, opcodeMask, opcodeMatch, and_op_kkMask]
  rfl

theorem ldSTVx (x : Nibble) : Statement (.ldSTVx x) := by
  simp [Statement, encode, opcodeMask, opcodeMatch, and_op_kkMask]
  rfl

theorem addI (x : Nibble) : Statement (.addI x) := by
  simp [Statement, encode, opcodeMask, opcodeMatch, and_op_kkMask]
  rfl

theorem ldF (x : Nibble) : Statement (.ldF x) := by
  simp [Statement, encode, opcodeMask, opcodeMatch, and_op_kkMask]
  rfl

theorem ldB (x : Nibble) : Statement (.ldB x) := by
  simp [Statement, encode, opcodeMask, opcodeMatch, and_op_kkMask]
  rfl

theorem stRegs (x : Nibble) : Statement (.stRegs x) := by
  simp [Statement, encode, opcodeMask, opcodeMatch, and_op_kkMask]
  rfl

theorem ldRegs (x : Nibble) : Statement (.ldRegs x) := by
  simp [Statement, encode, opcodeMask, opcodeMatch, and_op_kkMask]
  rfl

end Sys2Proof.Laws.EncodingFixedBits
end

