-- ==== Sys2Proof/Laws/Ports.lean ====
section
/-! SUPPORT. What the output ports show, said once (spec/60_exceptions.md R115). -/

namespace Sys2Proof.Machine

/-- `sp_out` is SP where 8 bits hold it; beyond that it is a free value, of which nothing can be said (log 24). -/
theorem spPort_toNat {sp : Nat} (h : sp < 256) : (spPort sp).toNat = sp := by
  simp only [spPort, if_pos h, BitVec.toNat_ofNat]
  omega

/-- Outside Halted there is no fault record to show (R25, log 23). -/
theorem faultOut_of_not_halted {m : Mode} (h : ∀ f, m ≠ .halted f) : faultOut m = none := by
  unfold faultOut
  split
  · next f => exact absurd rfl (h f)
  all_goals rfl

end Sys2Proof.Machine
end

