-- ==== Sys2Proof/Laws/Run.lean ====
section
/-! SUPPORT. Runs (spec/70_reset_and_hazards.md R124, R129): what one step of a run can be, that every run has one
outcome, and that a run that hangs under a host that keeps executing either waits for a key for ever or executes
instructions for ever. -/

namespace Sys2Proof.Machine

@[simp] theorem State.nextRequest_asks (s : State) (q : HostRequest) : (s.asks q).nextRequest = q := rfl
@[simp] theorem State.takeRequest_asks (s : State) (q : HostRequest) : (s.asks q).takeRequest = s := rfl
@[simp] theorem State.mode_asks (s : State) (q : HostRequest) : (s.asks q).mode = s.mode := rfl

variable {host : Nat → HostRequest} {r : Nat → State} {n m : Nat}

/-- Everything one step of a run can be. -/
theorem IsRun.step_cases (h : IsRun host r) (n : Nat) :
    (∃ key rand, host n = .execute key rand ∧ (r n).mode = .running ∧
      runInstruction ((r n).sample key rand) = .next (r (n + 1))) ∨
    (∃ key rand x, host n = .execute key rand ∧ (r n).mode = .awaitingKey x ∧
      r (n + 1) = ((r n).sample key rand).waitStep x) ∨
    (∃ key rand f, host n = .execute key rand ∧ (r n).mode = .halted f ∧ r (n + 1) = r n) ∨
    (host n = .tick ∧ r (n + 1) = (r n).tickStep) := by
  obtain ⟨hq, hs⟩ := h n
  rcases Machine.step_cases hs with h | h | h | h | ⟨hr, -⟩ | ⟨a, d, hr, -⟩
  · exact .inl (by simpa using h)
  · exact .inr (.inl (by simpa using h))
  · exact .inr (.inr (.inl (by simpa using h)))
  · exact .inr (.inr (.inr (by simpa using h)))
  all_goals simp_all

/-- A tick keeps the mode (R107). -/
@[simp] theorem State.mode_tickStep (s : State) : s.tickStep.mode = s.mode := by
  unfold State.tickStep
  split <;> simp_all

/-- A fault stays (R101): every later state of the run is the halted one. -/
theorem IsRun.faulted_stays (h : IsRun host r) (hn : (r n).faulted) (hm : n ≤ m) : r m = r n := by
  induction m, hm using Nat.le_induction with
  | base => rfl
  | succ m _ ih =>
    obtain ⟨f, hf⟩ := hn
    rw [← ih] at hf
    rcases h.step_cases m with ⟨_, _, _, hr, _⟩ | ⟨_, _, _, _, hr, _⟩ | ⟨_, _, _, _, _, e⟩ | ⟨_, e⟩
    · rw [hf] at hr; cases hr
    · rw [hf] at hr; cases hr
    · rw [e, ih]
    · rw [e, State.tickStep, hf, ih]

/-- Every run ends, faults or hangs (R124). -/
theorem run_outcome (r : Nat → State) : (∃ n, EndsAt r n) ∨ (∃ n, FaultsAt r n) ∨ Hangs r := by
  classical
  by_cases h : ∃ n, (r n).over
  · have first := fun m hm => Nat.find_min h (m := m) hm
    rcases Nat.find_spec h with he | hf
    · exact .inl ⟨_, he, first⟩
    · exact .inr (.inl ⟨_, hf, first⟩)
  · exact .inr (.inr fun n hn => h ⟨n, hn⟩)

/-- A faulted state is no end (R124). -/
theorem State.not_atEnd_of_faulted {s : State} (h : s.faulted) : ¬s.atEnd := by
  obtain ⟨f, hf⟩ := h
  unfold State.atEnd State.selfJump
  split <;> simp [hf]

/-- A run has one outcome: where it ends, it neither faults nor hangs, and it ends nowhere else (R124). -/
theorem EndsAt.only (h : EndsAt r n) : (∀ m, EndsAt r m → m = n) ∧ (∀ m, ¬FaultsAt r m) ∧ ¬Hangs r := by
  refine ⟨fun m hm => ?_, fun m hm => ?_, fun hh => hh n (.inl h.1)⟩ <;> rcases lt_trichotomy m n with lt | eq | gt
  · exact absurd (.inl hm.1) (h.2 m lt)
  · exact eq
  · exact absurd (.inl h.1) (hm.2 n gt)
  · exact h.2 m lt (.inr hm.1)
  · exact State.not_atEnd_of_faulted hm.1 (eq ▸ h.1)
  · exact hm.2 n gt (.inl h.1)

/-- A wait for a key lasts until an execute request supplies one (R92). -/
theorem IsRun.wait_stays {x : Nibble} (h : IsRun host r) (hn : (r n).mode = .awaitingKey x) (hm : n ≤ m)
    (none : ∀ j k rand, n ≤ j → j < m → host j ≠ .execute (some k) rand) : (r m).mode = .awaitingKey x := by
  induction m, hm using Nat.le_induction with
  | base => exact hn
  | succ m hle ih =>
    have hw := ih fun j k rand hj hlt => none j k rand hj (by omega)
    rcases h.step_cases m with ⟨_, _, _, hr, _⟩ | ⟨key, rand, y, hk, hr, e⟩ | ⟨_, _, _, _, hr, _⟩ | ⟨_, e⟩
    · rw [hw] at hr; cases hr
    · rw [hw] at hr; cases hr
      cases key with
      | none => rw [e]; simpa [State.waitStep, State.sample] using hw
      | some k => exact absurd hk (none m k rand hle (by omega))
    · rw [hw] at hr; cases hr
    · rw [e, State.mode_tickStep, hw]

/-- A supplied key ends a wait (R92, R129), so under `KeySupplied` every wait ends. -/
theorem IsRun.wait_ends {x : Nibble} (h : IsRun host r) (hn : (r n).mode = .awaitingKey x)
    (hex : KeyComes host n) : ∃ m, n ≤ m ∧ (r m).mode = .running := by
  classical
  obtain ⟨k, rand, hle, hq⟩ := Nat.find_spec hex
  have hw := h.wait_stays hn hle fun j k' rand' hj hlt e => Nat.find_min hex hlt ⟨k', rand', hj, e⟩
  refine ⟨_ + 1, le_trans hle (Nat.le_succ _), ?_⟩
  rcases h.step_cases (Nat.find hex) with ⟨_, _, _, hr, _⟩ | ⟨_, _, y, hq', hr, e⟩ | ⟨_, _, _, _, hr, _⟩ | ⟨hq', _⟩
  · rw [hw] at hr; cases hr
  · rw [hw] at hr; cases hr
    rw [hq] at hq'; cases hq'
    rw [e]; simp [State.waitStep, State.sample]
  · rw [hw] at hr; cases hr
  · rw [hq] at hq'; cases hq'

/-- Between execute requests there are only ticks, so a core that runs still runs at the next one (R107, R108). -/
theorem IsRun.running_at_next_execute (h : IsRun host r) (hn : (r n).mode = .running)
    (hx : ∃ m key rand, n ≤ m ∧ host m = .execute key rand) :
    ∃ m key rand, n ≤ m ∧ (r m).mode = .running ∧ host m = .execute key rand := by
  classical
  obtain ⟨key, rand, hle, hq⟩ := Nat.find_spec hx
  refine ⟨_, key, rand, hle, ?_, hq⟩
  have stays : ∀ m, n ≤ m → m ≤ Nat.find hx → (r m).mode = .running := by
    intro m hm
    induction m, hm using Nat.le_induction with
    | base => exact fun _ => hn
    | succ m hle ih =>
      intro hlt
      have none : ∀ key rand, host m ≠ .execute key rand := fun key rand e =>
        Nat.find_min hx (m := m) (by omega) ⟨key, rand, hle, e⟩
      obtain ⟨_, _, e, _⟩ | ⟨_, _, _, e, _⟩ | ⟨_, _, _, e, _⟩ | ⟨_, e⟩ := h.step_cases m
      iterate 3 exact absurd e (none _ _)
      rw [e, State.mode_tickStep, ih (by omega)]
  exact stays _ hle le_rfl

/-- The two kinds of hang (R124): under a host that keeps executing, a run that hangs waits for a key for ever or
executes instructions for ever. -/
theorem Hangs.kinds (h : IsRun host r) (hh : Hangs r) (hf : FairExecutes host r) :
    (∃ n x, ∀ m, n ≤ m → (r m).mode = .awaitingKey x) ∨
      ∀ n, ∃ m key rand, n ≤ m ∧ (r m).mode = .running ∧ host m = .execute key rand := by
  by_contra hno
  push Not at hno
  obtain ⟨noWait, n, noRun⟩ := hno
  have stuck : ∀ m, n ≤ m → (r m).mode ≠ .running := fun m hm hr =>
    have ⟨j, key, rand, hj, hrun, hq⟩ := h.running_at_next_execute hr (hf m fun j _ => hh j)
    noRun j key rand (le_trans hm hj) hrun hq
  obtain ⟨x, hx⟩ : ∃ x, (r n).mode = .awaitingKey x := by
    match hm : (r n).mode with
    | .running => exact absurd hm (stuck n le_rfl)
    | .awaitingKey x => exact ⟨x, rfl⟩
    | .halted f => exact absurd (.inr ⟨f, hm⟩) (hh n)
  by_cases hk : KeyComes host n
  · obtain ⟨m, hm, hr⟩ := h.wait_ends hx hk
    exact stuck m hm hr
  · obtain ⟨m, hm, hne⟩ := noWait n x
    exact hne (h.wait_stays hx hm fun j k rand hj _ hq => hk ⟨j, k, rand, hj, hq⟩)

end Sys2Proof.Machine
end

