-- ==== Sys2Proof/Tests/Slice0.lean ====
section
/-! SUPPORT. Tests of one step each, with expected results from spec/95_test_vectors.md (a vector's id stands beside
its test) or worked out from the rule named, decoding tests by words written out from the formats of spec/30_encoding.md,
and, for every statement with hypotheses, a concrete case that meets them. -/

namespace Sys2Proof.Tests

open Sys2Proof Sys2Proof.Machine

/-- Whether an outcome is a next state of which `p` holds. -/
def answers (o : Host.Outcome State Fault Refusal) (p : State → Bool) : Bool :=
  match o with
  | .next t => p t
  | .fault _ => false
  | .refused _ => false

/-- `s` with a word at PC and an execute request waiting. -/
def ready (w : Word) (s : State) (key : Option Byte := none) (rand : Byte := 0#8) : State :=
  { s.placeWord w with script := [.execute key rand] }

/-- Whether one execute step of a word answers a next state of which `p` holds. -/
def steps (w : Word) (s : State) (p : State → Bool) (key : Option Byte := none) (rand : Byte := 0#8) : Bool :=
  answers (step (ready w s key rand)) p

/-- The state after reset. -/
def start : State := State.reset

/-- A state with the given requests waiting. -/
def asked (s : State) (l : List HostRequest) : State := { s with script := l }

/-- The state after reset under other parameters. -/
def startUnder (f : RunParams → RunParams) : State := { State.reset with cfg := f State.reset.cfg }

/-- A stack of 16 entries. -/
def fullStack : List Word := List.replicate 16 0x202#16

/-- A halted state the model can reach: 8008 at 0x200. -/
def halted : State :=
  { start.setPC 0x202#16 with
    mode := .halted { cause := .unknownInstruction, pc := 0x200#16, word := 0x8008#16 }
    loadOpen := false }

/-- Two words at 0x200 and 0x300. -/
def callReturn : State :=
  { (start.setPC 0x300#16).placeWord 0x00EE#16 with pc := 0x200#16 }.placeWord 0x2300#16

/-! Well-formedness: SYS does not name the words of CLS and RET (R50). -/

theorem test_wf_sys_not_cls : wellFormed (.sys 0x0E0#12) = false := by decide
theorem test_wf_sys_not_ret : wellFormed (.sys 0x0EE#12) = false := by decide
theorem test_wf_sys : wellFormed (.sys 0x0E1#12) = true := by decide
theorem test_wf_drw : wellFormed (.drw 0xF#4 0x0#4 0xF#4) = true := by decide

/-! Decoding: a word of every row, its digits written out from R49. -/

theorem test_decode_sys : decode 0x0123#16 = .instr (.sys 0x123#12) := by decide
theorem test_decode_cls : decode 0x00E0#16 = .instr .cls := by decide
theorem test_decode_ret : decode 0x00EE#16 = .instr .ret := by decide
theorem test_decode_jp : decode 0x1234#16 = .instr (.jp 0x234#12) := by decide
theorem test_decode_call : decode 0x2345#16 = .instr (.call 0x345#12) := by decide
theorem test_decode_seByte : decode 0x3A5C#16 = .instr (.seByte 0xA#4 0x5C#8) := by decide
theorem test_decode_sneByte : decode 0x4A5C#16 = .instr (.sneByte 0xA#4 0x5C#8) := by decide
theorem test_decode_seReg : decode 0x5AC0#16 = .instr (.seReg 0xA#4 0xC#4) := by decide
theorem test_decode_ldByte : decode 0x6A5C#16 = .instr (.ldByte 0xA#4 0x5C#8) := by decide
theorem test_decode_addByte : decode 0x7A5C#16 = .instr (.addByte 0xA#4 0x5C#8) := by decide
theorem test_decode_ldReg : decode 0x8AC0#16 = .instr (.ldReg 0xA#4 0xC#4) := by decide
theorem test_decode_orReg : decode 0x8AC1#16 = .instr (.orReg 0xA#4 0xC#4) := by decide
theorem test_decode_andReg : decode 0x8AC2#16 = .instr (.andReg 0xA#4 0xC#4) := by decide
theorem test_decode_xorReg : decode 0x8AC3#16 = .instr (.xorReg 0xA#4 0xC#4) := by decide
theorem test_decode_addReg : decode 0x8AC4#16 = .instr (.addReg 0xA#4 0xC#4) := by decide
theorem test_decode_subReg : decode 0x8AC5#16 = .instr (.subReg 0xA#4 0xC#4) := by decide
theorem test_decode_shr : decode 0x8AC6#16 = .instr (.shr 0xA#4 0xC#4) := by decide
theorem test_decode_subn : decode 0x8AC7#16 = .instr (.subn 0xA#4 0xC#4) := by decide
theorem test_decode_shl : decode 0x8ACE#16 = .instr (.shl 0xA#4 0xC#4) := by decide
theorem test_decode_sneReg : decode 0x9AC0#16 = .instr (.sneReg 0xA#4 0xC#4) := by decide
theorem test_decode_ldI : decode 0xA234#16 = .instr (.ldI 0x234#12) := by decide
theorem test_decode_jpV0 : decode 0xB234#16 = .instr (.jpV0 0x234#12) := by decide
theorem test_decode_rnd : decode 0xCA5C#16 = .instr (.rnd 0xA#4 0x5C#8) := by decide
theorem test_decode_drw : decode 0xDAC5#16 = .instr (.drw 0xA#4 0xC#4 0x5#4) := by decide
theorem test_decode_skp : decode 0xEA9E#16 = .instr (.skp 0xA#4) := by decide
theorem test_decode_sknp : decode 0xEAA1#16 = .instr (.sknp 0xA#4) := by decide
theorem test_decode_ldVxDT : decode 0xFA07#16 = .instr (.ldVxDT 0xA#4) := by decide
theorem test_decode_ldVxK : decode 0xFA0A#16 = .instr (.ldVxK 0xA#4) := by decide
theorem test_decode_ldDTVx : decode 0xFA15#16 = .instr (.ldDTVx 0xA#4) := by decide
theorem test_decode_ldSTVx : decode 0xFA18#16 = .instr (.ldSTVx 0xA#4) := by decide
theorem test_decode_addI : decode 0xFA1E#16 = .instr (.addI 0xA#4) := by decide
theorem test_decode_ldF : decode 0xFA29#16 = .instr (.ldF 0xA#4) := by decide
theorem test_decode_ldB : decode 0xFA33#16 = .instr (.ldB 0xA#4) := by decide
theorem test_decode_stRegs : decode 0xFA55#16 = .instr (.stRegs 0xA#4) := by decide
theorem test_decode_ldRegs : decode 0xFA65#16 = .instr (.ldRegs 0xA#4) := by decide

/-- A3 to A9: neighbours that are no instruction. -/
theorem test_decode_unknown :
    [0x5121#16, 0x8008#16, 0x800F#16, 0x9121#16, 0xE19F#16, 0xF000#16, 0xFFFF#16].all
      (fun w => decode w = .unknown w) = true := by decide

/-- R30: the byte at the lower address is the high byte, and the rest is given back. -/
theorem test_decode_bytes : decodeBytes [0x12#8, 0x34#8, 0x56#8] = .ok (.jp 0x234#12, [0x56#8]) := by rfl

theorem test_table_word : decodeTableWord 16 0xD015 = some (.drw 0x0#4 0x1#4 0x5#4) := by decide

/-! Fetch and the fatal conditions. -/

/-- A2: the second byte of a word at 0xFFF comes from 0x000. -/
theorem test_fetch_wraps :
    steps 0x6012#16 (start.setPC 0x0FFF#16)
      (fun t => t.getV 0#4 == 0x12#8 && t.pc == 0x1001#16 && t.memRead 0 == 0x12#8) = true := by decide

/-- A3. -/
theorem test_unknown_halts :
    steps 0x5121#16 start (fun t => t.pc == 0x202#16 &&
      t.mode == .halted { cause := .unknownInstruction, pc := 0x200#16, word := 0x5121#16 }) = true := by decide

/-- A11, R101: an execute step in Halted does nothing. -/
theorem test_halted_execute :
    answers (step (asked halted [.execute none 0#8])) (fun t => t == halted) = true := by decide

/-- R54: the first step through `withFetchWord` runs the placed word. -/
theorem test_with_fetch_word :
    answers (step (State.reset.withFetchWord 16 0x60AB)) (fun t => t.getV 0#4 == 0xAB#8 && t.pc == 0x202#16) = true := by
  decide

/-! Control transfer. -/

/-- B9. -/
theorem test_sys_fault :
    steps 0x0123#16 start (fun t => t.pc == 0x202#16 &&
      t.mode == .halted { cause := .sysUnsupported, pc := 0x200#16, word := 0x0123#16 }) = true := by decide

/-- B10. -/
theorem test_sys_nop :
    steps 0x0123#16 (startUnder fun c => { c with sysMode := .nop })
      (fun t => t.pc == 0x202#16 && t.mode == .running) = true := by decide

/-- B8. -/
theorem test_ret :
    steps 0x00EE#16 (start.setStack [0x202#16, 0x310#16])
      (fun t => t.pc == 0x310#16 && t.stack == [0x202#16]) = true := by decide

/-- B7. -/
theorem test_ret_underflow :
    steps 0x00EE#16 start (fun t => t.pc == 0x202#16 &&
      t.mode == .halted { cause := .stackUnderflow, pc := 0x200#16, word := 0x00EE#16 }) = true := by decide

/-- A1. -/
theorem test_jp : steps 0x1234#16 start (fun t => t.pc == 0x234#16) = true := by decide

/-- B4. -/
theorem test_call :
    steps 0x2400#16 start (fun t => t.pc == 0x400#16 && t.sp == 1 && t.stack == [0x202#16]) = true := by decide

/-- B5. -/
theorem test_call_overflow :
    steps 0x2400#16 (start.setStack fullStack) (fun t => t.pc == 0x202#16 && t.sp == 16 &&
      t.mode == .halted { cause := .stackOverflow, pc := 0x200#16, word := 0x2400#16 }) = true := by decide

/-- B3: unmasked. -/
theorem test_jpV0 : steps 0xBFFF#16 (start.setV 0#4 0xFF#8) (fun t => t.pc == 0x10FE#16) = true := by decide

/-! Skips. -/

/-- C1. -/
theorem test_seByte : steps 0x3310#16 (start.setV 3#4 0x10#8) (fun t => t.pc == 0x204#16) = true := by decide

/-- C11: the two advances wrap. -/
theorem test_seByte_wraps : steps 0x3000#16 (start.setPC 0xFFFE#16) (fun t => t.pc == 0x0002#16) = true := by decide

/-- C3. -/
theorem test_sneByte_equal : steps 0x4310#16 (start.setV 3#4 0x10#8) (fun t => t.pc == 0x202#16) = true := by decide

/-- C4. -/
theorem test_sneByte : steps 0x4310#16 (start.setV 3#4 0x11#8) (fun t => t.pc == 0x204#16) = true := by decide

/-- C5. -/
theorem test_seReg :
    steps 0x5120#16 ((start.setV 1#4 0x7F#8).setV 2#4 0x7F#8) (fun t => t.pc == 0x204#16) = true := by decide

/-- C6. -/
theorem test_seReg_differ :
    steps 0x5120#16 ((start.setV 1#4 1#8).setV 2#4 2#8) (fun t => t.pc == 0x202#16) = true := by decide

/-- C7. -/
theorem test_sneReg :
    steps 0x9120#16 ((start.setV 1#4 1#8).setV 2#4 2#8) (fun t => t.pc == 0x204#16) = true := by decide

/-- C9. -/
theorem test_sneReg_same : steps 0x9550#16 start (fun t => t.pc == 0x202#16) = true := by decide

/-! Immediates. -/

/-- D1. -/
theorem test_ldByte : steps 0x60AB#16 start (fun t => t.getV 0#4 == 0xAB#8 && t.pc == 0x202#16) = true := by decide

/-- D3: no carry flag. -/
theorem test_addByte :
    steps 0x7103#16 (start.setV 1#4 0xFE#8) (fun t => t.getV 1#4 == 1#8 && t.getV 0xF#4 == 0#8) = true := by decide

/-- D4. -/
theorem test_addByte_vf : steps 0x7F01#16 (start.setV 0xF#4 0xFF#8) (fun t => t.getV 0xF#4 == 0#8) = true := by decide

/-! The register ALU. -/

/-- L1-1. -/
theorem test_ldReg :
    steps 0x8120#16 (start.setV 2#4 0x5A#8) (fun t => t.getV 1#4 == 0x5A#8 && t.getV 2#4 == 0x5A#8) = true := by decide

/-- E1: VF is left alone. -/
theorem test_orReg :
    steps 0x8121#16 (((start.setV 1#4 0x0F#8).setV 2#4 0xF0#8).setV 0xF#4 7#8)
      (fun t => t.getV 1#4 == 0xFF#8 && t.getV 0xF#4 == 7#8) = true := by decide

/-- E2. -/
theorem test_andReg :
    steps 0x8122#16 ((start.setV 1#4 0x3C#8).setV 2#4 0x0F#8) (fun t => t.getV 1#4 == 0x0C#8) = true := by decide

/-- E3. -/
theorem test_xorReg :
    steps 0x8123#16 ((start.setV 1#4 0xFF#8).setV 2#4 0x0F#8) (fun t => t.getV 1#4 == 0xF0#8) = true := by decide

/-- L1-2, the third row. -/
theorem test_addReg :
    steps 0x8124#16 ((start.setV 1#4 0x80#8).setV 2#4 0x80#8)
      (fun t => t.getV 1#4 == 0#8 && t.getV 0xF#4 == 1#8) = true := by decide

/-- E7: the flag overwrites the sum. -/
theorem test_addReg_vf :
    steps 0x8F14#16 ((start.setV 0xF#4 0xFF#8).setV 1#4 1#8) (fun t => t.getV 0xF#4 == 1#8) = true := by decide

/-- L1-3, the third row: equal operands do not borrow. -/
theorem test_subReg_equal :
    steps 0x8125#16 ((start.setV 1#4 0x42#8).setV 2#4 0x42#8)
      (fun t => t.getV 1#4 == 0#8 && t.getV 0xF#4 == 1#8) = true := by decide

/-- L1-3, the second row. -/
theorem test_subReg_borrow :
    steps 0x8125#16 ((start.setV 1#4 3#8).setV 2#4 5#8)
      (fun t => t.getV 1#4 == 0xFE#8 && t.getV 0xF#4 == 0#8) = true := by decide

/-- E12: V1 is shifted. -/
theorem test_shr :
    steps 0x8126#16 ((start.setV 1#4 0x81#8).setV 2#4 2#8)
      (fun t => t.getV 1#4 == 0x40#8 && t.getV 0xF#4 == 1#8) = true := by decide

/-- E13: under `SHIFT_SOURCE = y`, V2 is. -/
theorem test_shr_source_y :
    steps 0x8126#16 (((startUnder fun c => { c with shiftSource := .y }).setV 1#4 0x81#8).setV 2#4 2#8)
      (fun t => t.getV 1#4 == 1#8 && t.getV 0xF#4 == 0#8 && t.getV 2#4 == 2#8) = true := by decide

/-- E10. -/
theorem test_subn :
    steps 0x8127#16 ((start.setV 1#4 3#8).setV 2#4 5#8)
      (fun t => t.getV 1#4 == 2#8 && t.getV 0xF#4 == 1#8) = true := by decide

/-- E11. -/
theorem test_subn_borrow :
    steps 0x8127#16 ((start.setV 1#4 5#8).setV 2#4 3#8)
      (fun t => t.getV 1#4 == 0xFE#8 && t.getV 0xF#4 == 0#8) = true := by decide

/-- E14. -/
theorem test_shl :
    steps 0x812E#16 (start.setV 1#4 0x81#8) (fun t => t.getV 1#4 == 2#8 && t.getV 0xF#4 == 1#8) = true := by decide

/-- E15. -/
theorem test_shl_source_y :
    steps 0x812E#16 (((startUnder fun c => { c with shiftSource := .y }).setV 1#4 0x81#8).setV 2#4 0x40#8)
      (fun t => t.getV 1#4 == 0x80#8 && t.getV 0xF#4 == 0#8) = true := by decide

/-! Index and random. -/

/-- F1. -/
theorem test_ldI : steps 0xA2F0#16 start (fun t => t.i == 0x02F0#16) = true := by decide

/-- F3: not masked to 12 bits. -/
theorem test_addI : steps 0xF21E#16 ((start.setI 0x0FFF#16).setV 2#4 1#8) (fun t => t.i == 0x1000#16) = true := by decide

/-- F4. -/
theorem test_addI_wraps :
    steps 0xF21E#16 ((start.setI 0xFFFF#16).setV 2#4 1#8) (fun t => t.i == 0#16 && t.getV 0xF#4 == 0#8) = true := by decide

/-- F6: only the low nibble. -/
theorem test_ldF : steps 0xF329#16 (start.setV 3#4 0x1A#8) (fun t => t.i == 0x0082#16) = true := by decide

/-- F7. -/
theorem test_ldF_last : steps 0xF329#16 (start.setV 3#4 0x0F#8) (fun t => t.i == 0x009B#16) = true := by decide

/-- G1. -/
theorem test_rnd : steps 0xC10F#16 start (fun t => t.getV 1#4 == 6#8) none 0xB6#8 = true := by decide

/-! Display. -/

/-- H8. -/
theorem test_cls :
    steps 0x00E0#16 (start.setFB (FrameBuffer.blank.toggle 5#6 7#5)) (fun t => !t.fb.pixel 5#6 7#5) = true := by decide

/-- H7: VF is the collision, bit 7 the leftmost column. -/
theorem test_drw :
    steps 0xD011#16 (((start.setFB (FrameBuffer.blank.toggle 1#6 0#5)).setI 0x300#16).memWrite 0x300 0xC0#8)
      (fun t => t.fb.pixel 0#6 0#5 && !t.fb.pixel 1#6 0#5 && t.getV 0xF#4 == 1#8) = true := by decide

/-- H6: the origin is read before VF is cleared. -/
theorem test_drw_vf_origin :
    steps 0xDF11#16 (((start.setV 0xF#4 10#8).setI 0x300#16).memWrite 0x300 0x80#8)
      (fun t => t.fb.pixel 10#6 0#5 && t.getV 0xF#4 == 0#8) = true := by decide

/-! Keys. -/

/-- I1. -/
theorem test_skp : steps 0xE19E#16 (start.setV 1#4 0x0A#8) (fun t => t.pc == 0x204#16) (some 0x0A#8) = true := by decide

/-- I6: the whole byte is compared. -/
theorem test_skp_whole_byte :
    steps 0xE19E#16 (start.setV 1#4 0x1A#8) (fun t => t.pc == 0x202#16) (some 0x0A#8) = true := by decide

/-- I4. -/
theorem test_sknp_no_key : steps 0xE1A1#16 (start.setV 1#4 0x0A#8) (fun t => t.pc == 0x204#16) = true := by decide

/-- I5. -/
theorem test_sknp : steps 0xE1A1#16 (start.setV 1#4 0x0A#8) (fun t => t.pc == 0x202#16) (some 0x0A#8) = true := by decide

/-- I7. -/
theorem test_ldVxK :
    steps 0xF30A#16 (start.setPC 0x300#16)
      (fun t => t.mode == .awaitingKey 3#4 && t.pc == 0x302#16 && t.getV 3#4 == 0#8) (some 7#8) = true := by decide

/-- I9. -/
theorem test_wait_step :
    answers (step (asked ((start.setPC 0x302#16).setMode (.awaitingKey 3#4)) [.execute (some 7#8) 0#8]))
      (fun t => t.getV 3#4 == 7#8 && t.mode == .running && t.pc == 0x302#16) = true := by decide

/-! Timers. -/

/-- J1. -/
theorem test_ldVxDT : steps 0xF307#16 (start.setDT 0x3C#8) (fun t => t.getV 3#4 == 0x3C#8) = true := by decide

/-- J2. -/
theorem test_ldDTVx : steps 0xF315#16 (start.setV 3#4 0x3C#8) (fun t => t.dt == 0x3C#8) = true := by decide

/-- J3. -/
theorem test_ldSTVx : steps 0xF418#16 (start.setV 4#4 5#8) (fun t => t.st == 5#8) = true := by decide

/-- J4. -/
theorem test_tick :
    answers (step (asked (start.setDT 3#8) [.tick])) (fun t => t.dt == 2#8 && t.st == 0#8) = true := by decide

/-- J6. -/
theorem test_tick_halted :
    answers (step (asked (halted.setDT 5#8) [.tick])) (fun t => t.dt == 5#8) = true := by decide

/-! BCD and block transfer. -/

/-- K1. -/
theorem test_ldB :
    steps 0xF133#16 ((start.setV 1#4 0x9C#8).setI 0x300#16)
      (fun t => [0x300, 0x301, 0x302].map t.memRead == [1#8, 5#8, 6#8] && t.i == 0x300#16) = true := by decide

/-- K4: the addresses wrap. -/
theorem test_ldB_wraps :
    steps 0xF133#16 (((start.setV 1#4 7#8).setI 0xFFF#16).memWrite 0 9#8)
      (fun t => [0xFFF, 0x000, 0x001].map t.memRead == [0#8, 0#8, 7#8]) = true := by decide

/-- K6: I moves under `LOADSTORE_INC_I`. -/
theorem test_stRegs_inc :
    steps 0xF155#16
      ((((startUnder fun c => { c with loadStoreIncI := true }).setV 0#4 0x11#8).setV 1#4 0x22#8).setI 0x400#16)
      (fun t => [0x400, 0x401].map t.memRead == [0x11#8, 0x22#8] && t.i == 0x402#16) = true := by decide

/-- K9. -/
theorem test_stRegs_wraps :
    steps 0xF155#16 (((start.setV 0#4 0xAA#8).setV 1#4 0xBB#8).setI 0x1FFF#16)
      (fun t => [0xFFF, 0x000].map t.memRead == [0xAA#8, 0xBB#8] && t.i == 0x1FFF#16) = true := by decide

/-- R98: V0 to V1 are loaded, V2 is not. -/
theorem test_ldRegs :
    steps 0xF165#16 ((((start.setI 0x400#16).memWrite 0x400 3#8).memWrite 0x401 4#8).memWrite 0x402 5#8)
      (fun t => t.getV 0#4 == 3#8 && t.getV 1#4 == 4#8 && t.getV 2#4 == 0#8 && t.i == 0x400#16) = true := by decide

/-! Host requests and memory. -/

/-- R120: a reset leaves Halted. -/
theorem test_reset :
    answers (step (asked ((halted.setV 1#4 9#8).memWrite 5 9#8) [.reset])) (fun t => t == State.reset) = true := by
  decide

/-- R114: a loader write before the first execute step. -/
theorem test_load :
    answers (step (asked start [.load 0x123#12 7#8])) (fun t => t.mem == [(0x123, 7#8)]) = true := by decide

/-- R27: writing 0 unlists a byte, and the list stays sorted. -/
theorem test_memory_canonical :
    (((start.memWrite 5 1#8).memWrite 3 2#8).memWrite 5 0#8).mem = [(3, 2#8)] := by decide

/-- R115: sp_out at the full default depth and at the highest depth 8 bits hold. -/
theorem test_sp_out :
    (start.setStack fullStack).outputs.spOut = 16#8 ∧ spPort 255 = 255#8 := by decide

/-- R7: the sizes and widths, and the types of the state that follow them. -/
theorem test_sizes :
    hardwareConfig.toSizes = { memSize := 4096, numV := 16, iWidth := 16, pcWidth := 16, fbW := 64, fbH := 32 } ∧
      (start.setPC 0xFFFF#16).advancePC.pc.toNat = 1 ∧
      memAddr 0x1000 = 0 := by decide

/-- R124: an `END_PC` of the launch is taken instead of the self-jump. -/
theorem test_end_pc :
    let s := startUnder fun c => { c with endPc := some 0x200#16 }
    s.atEnd ∧ ¬s.selfJump ∧ ¬({ (ready 0x1202#16 (s.setPC 0x202#16)) with mode := .running }).atEnd :=
  ⟨⟨rfl, rfl⟩, fun h => h.2.elim fun _ h => (by cases h.1), fun h => (by cases h.2)⟩

/-- R124: a halted core is Faulted, and a core that is never given a key hangs. -/
theorem test_outcomes :
    FaultsAt (fun _ => halted) 0 ∧
      let s := { start with mode := .awaitingKey 5#4, loadOpen := false }
      IsRun (fun _ => .execute none 0#8) (fun _ => s) ∧ Hangs (fun _ => s) :=
  ⟨⟨⟨_, rfl⟩, by simp⟩, fun _ => ⟨.inl ⟨_, _, rfl⟩, rfl⟩, fun _ h => h.elim (fun h => (by cases h.1)) fun ⟨_, h⟩ => by cases h⟩

/-- R129: a host that stops once the run has ended has kept to the assumption; one that stops before has not. -/
theorem test_fair_executes :
    FairExecutes (fun _ => .tick) (fun _ => ready 0x1200#16 start) ∧ ¬FairExecutes (fun _ => .tick) fun _ => start := by
  constructor
  · intro n h
    exact absurd (.inl ⟨rfl, 0x200#12, by decide, by decide⟩) (h 0 (Nat.zero_le n))
  · intro h
    have undecided : ¬start.over := fun h => h.elim (fun h => h.2.elim fun _ h => (by cases h.1)) fun ⟨_, h⟩ => by cases h
    obtain ⟨_, _, _, _, e⟩ := h 0 fun _ _ => undecided
    cases e

/-- R33, R121: the boot writes, first and last. -/
theorem test_boot_script :
    (bootScript hardwareConfig.toRunParams [0x12#8, 0x00#8]).length = 82 ∧
      (bootScript hardwareConfig.toRunParams [0x12#8, 0x00#8]).head? = some (.load 0x050#12 0xF0#8) ∧
      (bootScript hardwareConfig.toRunParams [0x12#8, 0x00#8]).getLast? = some (.load 0x201#12 0x00#8) := by decide

/-! A case that meets the hypotheses of each statement that has some, at the ends of a range where one is named. -/

theorem witness_DecodingAnEncodingGivesItBack :
    [Instr.sys 0x0DF#12, .sys 0x0E1#12, .sys 0x0ED#12, .sys 0x0EF#12, .cls, .drw 0xF#4 0xF#4 0xF#4].all wellFormed = true := by
  decide

theorem witness_EncodingADecodingGivesItBack : decode 0x0000#16 = .instr (.sys 0#12) ∧ decode 0xFF65#16 = .instr (.ldRegs 0xF#4) := by
  decide

theorem witness_DecodingFollowsTheOpcodeMap :
    (decode 0x8126#16 = .instr (.shr 1#4 2#4)) ∧
      (0x0123#16 &&& opcodeMask (.sys 0#12) = opcodeMatch (.sys 0#12) ∧ (0x0123#16 : Word) ≠ 0x00E0#16 ∧
        (0x0123#16 : Word) ≠ 0x00EE#16) ∧
      (0x00E0#16 &&& opcodeMask .cls = opcodeMatch .cls ∧ opcodeMatch .cls ≠ 0x0000#16) := by decide

theorem witness_OnlyTheSystemRowsOverlap :
    ((0x0FFF#16 : Word).extractLsb' 12 4 = 0x0#4 ∧ (0x0FFF#16 : Word) ≠ 0x00E0#16 ∧ (0x0FFF#16 : Word) ≠ 0x00EE#16) ∧
      (0x00E0#16 &&& opcodeMask .cls = opcodeMatch .cls ∧
        0x00E0#16 &&& opcodeMask (.sys 0#12) = opcodeMatch (.sys 0#12)) ∧
      (0x00EE#16 &&& opcodeMask .ret = opcodeMatch .ret ∧
        0x00EE#16 &&& opcodeMask (.sys 0#12) = opcodeMatch (.sys 0#12)) := by decide

theorem witness_UnknownWordsAreExactlyTheListed :
    (ready 0xFFFF#16 start).nextRequest = .execute none 0#8 ∧ (ready 0xFFFF#16 start).mode = .running ∧
      UnknownWord (ready 0xFFFF#16 start).fetchWord := by
  unfold UnknownWord; decide

/-- One word of each family that has unknown words (A3 to A9). -/
theorem witness_UnknownWord_families :
    UnknownWord 0x5121#16 ∧ UnknownWord 0x8008#16 ∧ UnknownWord 0x9121#16 ∧ UnknownWord 0xE19F#16 ∧
      UnknownWord 0xF000#16 := by
  refine ⟨?_, ?_, ?_, ?_, ?_⟩ <;> unfold UnknownWord <;> decide

theorem witness_StepRunsTheDecodedInstruction :
    ((ready 0x60AB#16 start).nextRequest = .execute none 0#8 ∧ (ready 0x60AB#16 start).mode = .running ∧
      decode (ready 0x60AB#16 start).fetchWord = .instr (.ldByte 0#4 0xAB#8)) ∧
    decode (ready 0x8008#16 start).fetchWord = .unknown 0x8008#16 := by decide

theorem witness_FetchIsBigEndianAndWraps : (start.setPC 0xFFFF#16).pc.toNat % 4096 = 0xFFF := by decide

/-- Each cause but code 4 is raised in some state, and no condition holds in another. -/
theorem witness_FatalConditionsAreExactlyTheListed :
    FatalWhen start 0x8008#16 .unknownInstruction ∧ FatalWhen start 0x00EE#16 .stackUnderflow ∧
      FatalWhen (start.setStack fullStack) 0x2400#16 .stackOverflow ∧ FatalWhen start 0x0000#16 .sysUnsupported ∧
      ¬FatalWhen (start.setStack fullStack.tail) 0x2400#16 .stackOverflow ∧
      ¬FatalWhen start 0x00E0#16 .sysUnsupported := by
  unfold FatalWhen UnknownWord; decide

theorem witness_FatalConditionsArePrecise :
    (ready 0x00EE#16 start).nextRequest = .execute none 0#8 ∧ (ready 0x00EE#16 start).mode = .running ∧
      ∃ t, step (ready 0x00EE#16 start) = .next t ∧
        t.mode = .halted { cause := .stackUnderflow, pc := 0x200#16, word := 0x00EE#16 } :=
  ⟨rfl, rfl, _, rfl, rfl⟩

theorem witness_HaltedIsAbsorbing :
    halted.mode = .halted { cause := .unknownInstruction, pc := 0x200#16, word := 0x8008#16 } ∧
      (asked halted [.execute none 0#8]).nextRequest = .execute none 0#8 ∧
      (asked halted [.tick]).nextRequest = .tick ∧
      ∃ t, step (asked halted [.tick]) = .next t ∧ (asked halted [.tick]).nextRequest ≠ .reset :=
  ⟨rfl, rfl, rfl, _, rfl, by decide⟩

theorem witness_WaitStepTakesAKey :
    let s := start.setMode (.awaitingKey 0xF#4)
    s.mode = .awaitingKey 0xF#4 ∧ (asked s [.execute (some 7#8) 0#8]).nextRequest = .execute (some 7#8) 0#8 ∧
      (asked s [.execute none 0#8]).nextRequest = .execute none 0#8 ∧
      (asked s [.tick]).nextRequest = .tick := by decide

theorem witness_TickCountsBothTimersDown :
    ((asked start [.tick]).nextRequest = .tick ∧ ∀ f, (asked start [.tick]).mode ≠ .halted f) ∧
      ∃ t, step (ready 0xF315#16 (start.setV 3#4 9#8)) = .next t ∧ t.dt ≠ start.dt :=
  ⟨⟨rfl, fun _ => by simp [asked, start, State.reset]⟩, _, rfl, by decide⟩

theorem witness_TicksCountTimersDownToZero :
    (asked start [.tick, .tick, .reset]).script = List.replicate 2 .tick ++ [.reset] ∧
      ∀ f, (asked start [.tick, .tick, .reset]).mode ≠ .halted f :=
  ⟨rfl, fun _ => by simp [asked, start, State.reset]⟩

theorem witness_ResetRequestRestoresEverything :
    (asked halted [.reset]).nextRequest = .reset ∧ (asked start [.reset]).nextRequest = .reset := by decide

theorem witness_LoaderWritesOnlyBeforeTheFirstStep :
    ((asked start [.load 0xFFF#12 1#8]).nextRequest = .load 0xFFF#12 1#8 ∧ start.loadOpen = true) ∧
      ((ready 0x60AB#16 start).nextRequest = .execute none 0#8 ∧ ∀ f, (ready 0x60AB#16 start).mode ≠ .halted f) ∧
      ((asked halted [.load 0#12 1#8]).nextRequest = .load 0#12 1#8 ∧
        (asked halted [.load 0#12 1#8]).loadOpen = false) :=
  ⟨by decide, ⟨rfl, fun _ => by simp [ready, State.placeWord, State.memWrite, start, State.reset]⟩, by decide⟩

/-- A program of two bytes, and one that ends at the top of memory. -/
theorem witness_BootLoadsFontAndProgram :
    let s := asked start (bootScript start.cfg [0x12#8, 0x00#8] ++ [.execute none 0#8])
    s.loadOpen = true ∧ s.cfg.loadAddr.toNat + [0x12#8, 0x00#8].length ≤ 4096 ∧
      s.script = bootScript s.cfg [0x12#8, 0x00#8] ++ [.execute none 0#8] ∧
      (∀ j, j < 2 → s.cfg.loadAddr.toNat + j ≠ memAddr (s.cfg.fontBase.toNat + 79)) ∧
      s.cfg.loadAddr.toNat + 3584 = 4096 := by decide

theorem witness_OnlyALateLoadStopsTheModel :
    step (asked halted [.load 0#12 1#8]) = .refused .loadAfterFirstStep := rfl

/-- The self-jump of L2 and its run under ticks: it ends at its first state. -/
theorem witness_SelfJumpRepeatsItself :
    ((ready 0x1200#16 start).nextRequest = .execute none 0#8 ∧ (ready 0x1200#16 start).selfJump) ∧
      IsRun (fun _ => .tick) (fun _ => ready 0x1200#16 start) ∧ EndsAt (fun _ => ready 0x1200#16 start) 0 :=
  ⟨⟨rfl, rfl, 0x200#12, by decide, by decide⟩, fun _ => ⟨.inr rfl, rfl⟩, ⟨rfl, 0x200#12, by decide, by decide⟩, by simp⟩

/-- One below the depth, at the depth, and unbounded (B4, B5, B6). -/
theorem witness_CallPushesAndJumps :
    (start.setStack fullStack.tail).cfg.stackDepth ≠ some (start.setStack fullStack.tail).sp ∧
      (start.setStack fullStack).cfg.stackDepth = some (start.setStack fullStack).sp ∧
      ((startUnder fun c => { c with stackDepth := none }).setStack fullStack).cfg.stackDepth ≠ some 16 := by decide

theorem witness_ReturnPopsIntoPC :
    (start.setStack [0x202#16]).stack = [] ++ [0x202#16] ∧ start.stack = [] := by decide

/-- PC past an instruction at 0x200, and past one at 0xFFFE. -/
theorem witness_record_address :
    (start.setPC 0x202#16).pc = 0x200#16 + 2#16 ∧ (start.setPC 0#16).pc = 0xFFFE#16 + 2#16 := by decide

theorem witness_SysFaultsOrDoesNothing :
    ((0x0E1#12 : Addr) ≠ 0x0E0#12 ∧ (0x0E1#12 : Addr) ≠ 0x0EE#12) ∧ start.cfg.sysMode = .fault ∧
      (startUnder fun c => { c with sysMode := .nop }).cfg.sysMode = .nop := by decide

theorem witness_CallThenReturnComesBack :
    let s := asked callReturn [.execute none 0#8, .execute none 0#8]
    s.script = .execute none 0#8 :: .execute none 0#8 :: [] ∧ s.mode = .running ∧
      s.fetchWord = 0x2#4 ++ (0x300#12 : Addr) ∧ s.cfg.stackDepth ≠ some s.sp ∧
      s.memRead (0x300#12 : Addr).toNat = 0x00#8 ∧ s.memRead ((0x300#12 : Addr).toNat + 1) = 0xEE#8 := by decide

theorem witness_ATakenSkipLandsFourPast :
    (ready 0x3300#16 start).nextRequest = .execute none 0#8 ∧ (ready 0x3300#16 start).mode = .running ∧
      decode (ready 0x3300#16 start).fetchWord = .instr (.seByte 3#4 0#8) ∧
      skipCondition ((ready 0x3300#16 start).sampled none 0#8) (.seByte 3#4 0#8) = some (start.getV 3#4 = 0#8) ∧
      start.getV 3#4 = 0#8 ∧ ¬(start.setV 3#4 1#8).getV 3#4 = 0#8 :=
  ⟨rfl, rfl, by decide, rfl, by decide, by decide⟩

/-- x = F and x ≠ F. -/
theorem witness_flag_writers_x : (0xE#4 : Nibble) ≠ 0xF#4 := by decide

theorem witness_ShiftsMoveOneBitIntoVF :
    (start.setV 1#4 0x81#8).shiftOperand 1#4 2#4 = 0x81#8 ∧
      ((startUnder fun c => { c with shiftSource := .y }).setV 2#4 0x7E#8).shiftOperand 1#4 2#4 = 0x7E#8 := by decide

theorem witness_FlagsAreZeroOrOne : writesFlag (.addReg 0xF#4 0xF#4) = true ∧ ∃ t, exec (.addReg 0xF#4 0xF#4) start = .next t :=
  ⟨rfl, _, rfl⟩

/-- A flag writer, a data write of VF and a wait step that each change VF. -/
theorem witness_OnlyListedInstructionsWriteVF :
    (∃ t, exec (.subReg 0#4 1#4) start = .next t ∧ t.getV 0xF#4 ≠ start.getV 0xF#4) ∧
      (∃ t, exec (.ldByte 0xF#4 7#8) start = .next t ∧ t.getV 0xF#4 ≠ start.getV 0xF#4) ∧
      (asked (start.setMode (.awaitingKey 0xF#4)) [.execute (some 7#8) 0#8]).nextRequest = .execute (some 7#8) 0#8 ∧
      (∃ t, step (asked (start.setMode (.awaitingKey 0xF#4)) [.execute (some 7#8) 0#8]) = .next t ∧
        t.getV 0xF#4 ≠ start.getV 0xF#4) ∧
      (∃ t, step (ready 0x6F07#16 start) = .next t ∧ t.getV 0xF#4 ≠ start.getV 0xF#4) ∧
      ∃ t, step (asked (start.setV 0xF#4 7#8) [.reset]) = .next t ∧ t.getV 0xF#4 ≠ 7#8 :=
  ⟨⟨_, rfl, by decide⟩, ⟨_, rfl, by decide⟩, rfl, ⟨_, rfl, by decide⟩, ⟨_, rfl, by decide⟩, _, rfl, by decide⟩

/-- V3 differs, an instruction that reads V1 and V2 does not see it. -/
theorem witness_RegisterAccessIsTheListed :
    3#4 ∉ vWrites (.addReg 1#4 2#4) ∧
      ((asked (start.setMode (.awaitingKey 3#4)) [.execute (some 7#8) 0#8]).nextRequest = .execute (some 7#8) 0#8 ∧
        (start.setMode (.awaitingKey 3#4)).mode = .awaitingKey 3#4 ∧
        ∃ t, step (asked (start.setMode (.awaitingKey 3#4)) [.execute (some 7#8) 0#8]) = .next t) ∧
      (∀ r, r ∈ vReads start.cfg.shiftSource (.addReg 1#4 2#4) →
        ({ start with v := (start.setV 3#4 9#8).v } : State).getV r = start.getV r) ∧
      (∃ t, exec (.addReg 1#4 2#4) start = .next t) ∧
      ∃ t', exec (.addReg 1#4 2#4) { start with v := (start.setV 3#4 9#8).v } = .next t' :=
  ⟨by decide, ⟨rfl, rfl, _, rfl⟩, by decide, ⟨_, rfl⟩, _, rfl⟩

theorem witness_OnlyListedInstructionsWriteI :
    (∃ t, exec (.ldI 5#12) start = .next t ∧ t.i ≠ start.i) ∧
      (∃ t, exec (.stRegs 0#4) (startUnder fun c => { c with loadStoreIncI := true }) = .next t ∧ t.i ≠ 0#16) ∧
      (∃ t, step (ready 0xA005#16 start) = .next t ∧ t.i ≠ start.i) ∧
      ∃ t, step (asked (start.setI 5#16) [.reset]) = .next t ∧ t.i ≠ 5#16 :=
  ⟨⟨_, rfl, by decide⟩, ⟨_, rfl, by decide⟩, ⟨_, rfl, by decide⟩, _, rfl, by decide⟩

theorem witness_InputsAreReadOnlyWhereListed :
    (∀ x, Instr.rnd 1#4 2#8 ≠ .skp x ∧ Instr.rnd 1#4 2#8 ≠ .sknp x) ∧ (∃ t, exec (.rnd 1#4 2#8) start = .next t) ∧
      (∀ x kk, Instr.skp 1#4 ≠ .rnd x kk) ∧ ∃ t, exec (.skp 1#4) start = .next t :=
  ⟨fun _ => by simp, ⟨_, rfl⟩, fun _ _ => by simp, _, rfl⟩

/-- The first pixel of a sprite drawn at the bottom right corner, and its wrapped neighbour. -/
theorem witness_DrawXorsTheCoveredPixels :
    let s := (((start.setV 0#4 63#8).setV 1#4 31#8).setI 0x300#16).memWrite 0x300 0xC0#8
    SpriteCovers s 0#4 1#4 1#4 63#6 31#5 ∧ SpriteCovers s 0#4 1#4 1#4 0#6 31#5 :=
  ⟨⟨0, 0, by decide, by decide, by decide, by decide, by decide⟩, 0, 1, by decide, by decide, by decide, by decide, by decide⟩

/-- n = 0 covers nothing. -/
theorem witness_DrawXorsNothing : ¬SpriteCovers start 0#4 1#4 0#4 0#6 0#5 := fun ⟨_, _, h, _⟩ => by simp at h

/-- Two plain registers, and VF as a coordinate: drawn at column 0 with no collision. -/
theorem witness_DrawingTwiceRestoresTheScreen :
    (∃ t, exec (.drw 0#4 1#4 2#4) start = .next t ∧ t.getV 0#4 = start.getV 0#4 ∧ t.getV 1#4 = start.getV 1#4) ∧
      ∃ t, exec (.drw 0xF#4 1#4 1#4) start = .next t ∧ t.getV 0xF#4 = start.getV 0xF#4 ∧ t.getV 1#4 = start.getV 1#4 :=
  ⟨⟨_, rfl, by decide, by decide⟩, _, rfl, by decide, by decide⟩

theorem witness_OnlyClearAndDrawChangeTheScreen :
    (∃ t, exec .cls (start.setFB (FrameBuffer.blank.toggle 5#6 7#5)) = .next t ∧
      t.fb ≠ (start.setFB (FrameBuffer.blank.toggle 5#6 7#5)).fb) ∧
      ∃ t, step (ready 0x00E0#16 (start.setFB (FrameBuffer.blank.toggle 5#6 7#5))) = .next t ∧
        t.fb ≠ FrameBuffer.blank.toggle 5#6 7#5 :=
  ⟨⟨_, rfl, by decide⟩, _, rfl, by decide⟩

theorem witness_OnlyTimerLoadsChangeTheTimers :
    (∃ t, exec (.ldDTVx 1#4) (start.setV 1#4 9#8) = .next t ∧ t.dt ≠ start.dt) ∧
      ∃ t, exec (.ldSTVx 1#4) (start.setV 1#4 9#8) = .next t ∧ t.st ≠ start.st :=
  ⟨⟨_, rfl, by decide⟩, _, rfl, by decide⟩

/-- The ends of a block: x = 0 and x = F. -/
theorem witness_block_ends : (0#4 : Nibble).toNat ≤ (0#4 : Nibble).toNat ∧ (0xF#4 : Nibble).toNat ≤ (0xF#4 : Nibble).toNat ∧
    (0xE#4 : Nibble).toNat < (0xF#4 : Nibble).toNat := by decide

theorem witness_StoreThenLoadRoundTrips :
    ∃ t u : State, exec (.stRegs 1#4) ((start.setV 1#4 9#8).setI 0x400#16) = .next t ∧ u.mem = t.mem ∧ u.i = 0x400#16 ∧
      u.getV 1#4 = 0#8 :=
  ⟨_, (start.setI 0x400#16).memWrite 0x401 9#8, rfl, by decide, rfl, by decide⟩

/-- The word at 0x200 stores over the next word, at 0x202: Fx55 with x = 0 over its high byte, from one address space
above; with x = 0 over its low byte; with x = F from 15 below, over its high byte alone; and Fx33 over both. -/
theorem witness_FetchSeesAStoreAtOnce :
    ((ready 0xF055#16 start).nextRequest = .execute none 0#8 ∧ (ready 0xF055#16 start).mode = .running ∧
      decode (ready 0xF055#16 start).fetchWord = .instr (.stRegs 0#4) ∧
      decode (ready 0xF133#16 start).fetchWord = .instr (.ldB 1#4)) ∧
    (∃ t, step (ready 0xF055#16 (start.setI 0x1202#16)) = .next t ∧ memAddr (0x1202 + 0) = memAddr t.pc.toNat) ∧
    (∃ t, step (ready 0xF055#16 (start.setI 0x203#16)) = .next t ∧ memAddr (0x203 + 0) = memAddr (t.pc.toNat + 1)) ∧
    (∃ t, step (ready 0xFF55#16 (start.setI 0x1F3#16)) = .next t ∧ memAddr (0x1F3 + 15) = memAddr t.pc.toNat ∧
      ∀ k, k < 16 → memAddr (0x1F3 + k) ≠ memAddr (t.pc.toNat + 1)) ∧
    ∃ t, step (ready 0xF133#16 (start.setI 0x202#16)) = .next t ∧ memAddr (0x202 + 1) = memAddr (t.pc.toNat + 1) :=
  ⟨by decide, ⟨_, rfl, by decide⟩, ⟨_, rfl, by decide⟩, ⟨_, rfl, by decide, by decide⟩, _, rfl, by decide⟩

/-- R39: the first two digits of 156, stored over the next word, are what the next fetch reads. -/
theorem test_fetch_sees_store :
    steps 0xF133#16 ((start.setV 1#4 0x9C#8).setI 0x202#16) (fun t => t.fetchWord == 0x0105#16) = true := by decide

theorem witness_OnlyStoresChangeMemory :
    (∃ t, exec (.ldB 1#4) (start.setV 1#4 9#8) = .next t ∧ t.mem ≠ start.mem) ∧
      (∃ t, step (ready 0xF133#16 (start.setV 1#4 9#8)) = .next t ∧ t.mem ≠ (ready 0xF133#16 (start.setV 1#4 9#8)).mem) ∧
      (∃ t, step (asked start [.load 0#12 1#8]) = .next t ∧ t.mem ≠ start.mem) ∧
      ∃ t, step (asked (start.memWrite 0 1#8) [.reset]) = .next t ∧ t.mem ≠ (start.memWrite 0 1#8).mem :=
  ⟨⟨_, rfl, by decide⟩, ⟨_, rfl, by decide⟩, ⟨_, rfl, by decide⟩, _, rfl, by decide⟩

theorem witness_OnlyControlTransfersChangeStackAndPC :
    (∃ t, exec (.call 0x300#12) start = .next t ∧ t.stack ≠ start.stack ∧ t.pc ≠ start.pc) ∧
      (∃ t, exec .ret (start.setStack [0x310#16]) = .next t ∧ t.stack ≠ (start.setStack [0x310#16]).stack) ∧
      (∃ t, exec (.seByte 0#4 0#8) start = .next t ∧ t.pc ≠ start.pc) ∧
      (∃ t, step (ready 0x2300#16 start) = .next t ∧ t.stack ≠ start.stack ∧ t.pc ≠ start.pc) ∧
      (∃ t, step (ready 0x3000#16 start) = .next t ∧ t.pc = start.pc + 4#16) ∧
      ∃ t, step (asked (start.setPC 0x310#16) [.reset]) = .next t ∧ t.pc ≠ 0x310#16 :=
  ⟨⟨_, rfl, by decide, by decide⟩, ⟨_, rfl, by decide⟩, ⟨_, rfl, by decide⟩, ⟨_, rfl, by decide, by decide⟩,
    ⟨_, rfl, by decide⟩, _, rfl, by decide⟩

theorem witness_EveryStepKeepsTheInvariant :
    Inv (ready 0x60AB#16 start) ∧ ∃ t, step (ready 0x60AB#16 start) = .next t :=
  ⟨⟨by decide, by intro d h; cases h; decide, by simp [ready, State.placeWord, State.memWrite, start, State.reset],
    fun h => absurd rfl h⟩, _, rfl⟩

theorem witness_NoStepChangesTheConfiguration : ∃ t, step (asked halted [.reset]) = .next t := ⟨_, rfl⟩

/-- The invariant holds of a halted state too. -/
theorem witness_Inv_halted : Inv halted :=
  ⟨by decide, by intro d h; cases h; decide, fun f h => by cases h; exact ⟨by decide, by unfold FatalWhen UnknownWord; decide⟩,
    fun _ => rfl⟩

theorem witness_OutputsShowTheState :
    (∀ f, start.mode ≠ .halted f) ∧ start.sp < 256 ∧ (start.setStack (List.replicate 255 0#16)).sp = 255 ∧
      start.mode = .running ∧ (start.setMode (.awaitingKey 0xF#4)).mode = .awaitingKey 0xF#4 ∧
      halted.mode = .halted { cause := .unknownInstruction, pc := 0x200#16, word := 0x8008#16 } :=
  ⟨fun _ => by simp [start, State.reset], by decide, List.length_replicate, rfl, rfl, rfl⟩

end Sys2Proof.Tests
end

section
/-! The configuration is fixed for a run (spec/00_scope.md R7, spec/10_state.md R26): no instruction changes it, and
neither does any other kind of step. -/

namespace Sys2Proof.Machine

variable {s t : State}

/-- The result and the flag of R71 are two register writes. -/
@[simp] theorem State.writeResultThenFlag_cfg (x : Nibble) (b : Byte) (c : Bool) :
    (s.writeResultThenFlag x b c).cfg = s.cfg := rfl

@[simp] theorem State.storeRegs_cfg (base count : Nat) : (s.storeRegs base count).cfg = s.cfg :=
  (s.storeRegs_frame base count).cfg

@[simp] theorem State.loadRegs_cfg (base count : Nat) : (s.loadRegs base count).cfg = s.cfg :=
  (s.loadRegs_frame base count).cfg

/-- The three instructions that can raise a fatal condition have several outcomes; every other instruction is one
chain of state updates, each of which keeps the configuration. -/
theorem exec_keeps_cfg {i : Instr} (h : exec i s = .next t) : t.cfg = s.cfg := by
  cases i
  case sys => rcases exec_sys_cases h with ⟨_, rfl⟩ | ⟨_, rfl⟩ <;> simp
  case ret => rcases exec_ret_cases h with ⟨_, rfl⟩ | ⟨_, _, _, rfl⟩ <;> simp
  case call => rcases exec_call_cases h with ⟨_, rfl⟩ | ⟨_, rfl⟩ <;> simp
  all_goals
    cases h
    simp

/-- The fetched word is an instruction, or it is unknown and raises a fatal condition (R54). -/
theorem runInstruction_keeps_cfg (h : runInstruction s = .next t) : t.cfg = s.cfg := by
  cases hd : decode s.fetchWord with
  | instr i =>
    rw [runInstruction_instr hd] at h
    calc t.cfg = s.advancePC.cfg := exec_keeps_cfg h
      _ = s.cfg := by simp
  | unknown w =>
    rw [runInstruction_unknown hd] at h
    cases h
    simp

/-- Settles O58, by the kind of step: taking the request, sampling the inputs and what the request then does each keep
the configuration. -/
theorem noStepChangesTheConfiguration : Obligations.NoStepChangesTheConfiguration := by
  intro s t h
  rcases step_cases h with ⟨key, rand, _, _, running⟩ | ⟨_, _, _, _, _, rfl⟩ | ⟨_, _, _, _, _, rfl⟩ | ⟨_, rfl⟩ |
    ⟨_, rfl⟩ | ⟨_, _, _, _, rfl⟩
  case inl =>
    calc t.cfg = (s.takeRequest.sample key rand).cfg := runInstruction_keeps_cfg running
      _ = s.cfg := by simp
  all_goals simp

end Sys2Proof.Machine
end

section
/-! What an instruction may change (spec/10_state.md R14, R16, R18, R22, R23, spec/20_memory.md R29), said once for
every instruction as a footprint, with the frame every execution keeps; each "only these instructions change it"
follows from the footprint. -/

namespace Sys2Proof.Machine

variable {s t : State} {i : Instr}

/-- The parts an instruction may change beside the V registers and I, which `vWrites` and `writesI` list. -/
def otherWrites (s : State) : Instr → List Part
  | .sys _ | .ldVxK _ => [.mode]
  | .cls | .drw _ _ _ => [.screen]
  | .ret | .call _ => [.stack, .pc, .mode]
  | .jp _ | .jpV0 _ | .seByte _ _ | .sneByte _ _ | .seReg _ _ | .sneReg _ _ | .skp _ | .sknp _ => [.pc]
  | .ldDTVx _ => [.dt]
  | .ldSTVx _ => [.st]
  | .ldB _ =>
    [.byte (memAddr s.i.toNat), .byte (memAddr (s.i.toNat + 1)), .byte (memAddr (s.i.toNat + 2))]
  | .stRegs x => (List.range (x.toNat + 1)).map fun k => .byte (memAddr (s.i.toNat + k))
  | .ldByte _ _ | .addByte _ _ | .ldReg _ _ | .orReg _ _ | .andReg _ _ | .xorReg _ _ | .addReg _ _ | .subReg _ _
  | .shr _ _ | .subn _ _ | .shl _ _ | .ldI _ | .rnd _ _ | .ldVxDT _ | .addI _ | .ldF _ | .ldRegs _ => []

/-- Every part an instruction may change. -/
def instrWrites (s : State) (i : Instr) : List Part :=
  (vWrites i).map .v ++ (if writesI s.cfg i then [.i] else []) ++ otherWrites s i

/-- A block transfer of V0 to Vx moves I only under `LOADSTORE_INC_I` (R97, R98). -/
theorem State.setI_blockIndex_frame {s u : State} (x : Nibble) (hu : u.i = s.i) :
    SameOutside (if s.cfg.loadStoreIncI then [.i] else []) u (u.setI (s.blockIndex x)) := by
  unfold State.blockIndex
  split
  · exact u.setI_frame _
  · rw [← hu]
    exact SameOutside.rfl' _ u

/-- Every instruction changes nothing but its footprint. -/
theorem exec_frame (h : exec i s = .next t) : SameOutside (instrWrites s i) s t := by
  cases i
  case sys nnn =>
    rcases exec_sys_cases h with ⟨_, rfl⟩ | ⟨_, rfl⟩
    · exact s.raiseFatal_frame _ _ _
    · exact SameOutside.rfl' _ _
  case ret =>
    rcases exec_ret_cases h with ⟨_, rfl⟩ | ⟨below, w, _, rfl⟩
    · exact (s.raiseFatal_frame _ _ _).mono (by simp [instrWrites, otherWrites])
    · exact ((s.setStack_frame below).trans (State.setPC_frame _ w)).mono (by simp [instrWrites, otherWrites])
  case call nnn =>
    rcases exec_call_cases h with ⟨_, rfl⟩ | ⟨_, rfl⟩
    · exact (s.raiseFatal_frame _ _ _).mono (by simp [instrWrites, otherWrites])
    · exact ((s.setStack_frame _).trans (State.setPC_frame _ _)).mono (by simp [instrWrites, otherWrites])
  case jp | jpV0 => cases h; exact s.setPC_frame _
  case seByte | sneByte | seReg | sneReg | skp | sknp => cases h; exact s.skipIf_frame _
  case ldByte | addByte | ldReg | orReg | andReg | xorReg | rnd | ldVxDT => cases h; exact s.setV_frame _ _
  case addReg | subReg | shr | subn | shl => cases h; exact s.writeResultThenFlag_frame _ _ _
  case ldI | addI | ldF => cases h; exact s.setI_frame _
  case ldDTVx => cases h; exact s.setDT_frame _
  case ldSTVx => cases h; exact s.setST_frame _
  case ldVxK => cases h; exact s.setMode_frame _
  case cls => cases h; exact s.setFB_frame _
  case drw =>
    cases h
    exact (((s.setV_frame _ _).trans (State.setFB_frame _ _)).trans (State.setV_frame _ _ _)).mono
      (by simp [instrWrites, otherWrites, vWrites])
  case ldB =>
    cases h
    exact ((s.memWrite_frame _ _).trans (State.memWrite_frame _ _ _)).trans (State.memWrite_frame _ _ _)
  case stRegs x =>
    cases h
    have stored := s.storeRegs_frame s.i.toNat (x.toNat + 1)
    exact (stored.trans (State.setI_blockIndex_frame x (stored.i (by simp)))).mono
      fun p hp => List.mem_append.2 (List.mem_append.1 hp).symm
  case ldRegs x =>
    cases h
    have loaded : SameOutside ((vUpTo x).map .v) s (s.loadRegs s.i.toNat (x.toNat + 1)) := by
      simpa [vUpTo, Function.comp_def] using s.loadRegs_frame s.i.toNat (x.toNat + 1)
    exact (loaded.trans (State.setI_blockIndex_frame x (loaded.i (by simp)))).mono
      fun p hp => List.mem_append_left _ hp

/-! Which instructions have a part in their footprint. -/

theorem v_mem_instrWrites {r : Nibble} : .v r ∈ instrWrites s i ↔ r ∈ vWrites i := by
  have other : Part.v r ∉ otherWrites s i := by cases i <;> simp [otherWrites]
  by_cases h : writesI s.cfg i <;> simp [instrWrites, h, other]

theorem i_mem_instrWrites : .i ∈ instrWrites s i ↔ writesI s.cfg i = true := by
  have other : Part.i ∉ otherWrites s i := by cases i <;> simp [otherWrites]
  by_cases h : writesI s.cfg i <;> simp [instrWrites, h, other]

/-- Parts that are neither a register nor I are those `otherWrites` lists. -/
theorem mem_instrWrites_of_other {p : Part} (hv : ∀ r, p ≠ .v r) (hi : p ≠ .i) :
    p ∈ instrWrites s i ↔ p ∈ otherWrites s i := by
  have notV : p ∉ (vWrites i).map Part.v := by simpa using fun r _ e => hv r e.symm
  by_cases h : writesI s.cfg i <;> simp [instrWrites, h, hi, notV]

/-- A change that lists neither the screen nor a pixel leaves the whole framebuffer. -/
theorem SameOutside.fb_eq {parts : List Part} (h : SameOutside parts s t) (hs : .screen ∉ parts)
    (hp : ∀ c r, .pixel c r ∉ parts) : t.fb = s.fb :=
  FrameBuffer.ext_pixel fun c r => h.pixel c r hs (hp c r)

end Sys2Proof.Machine
end

section
/-! Every step keeps the invariant (spec/10_state.md R19, spec/20_memory.md R27, R41, spec/60_exceptions.md R99 to
R102): what decoding says of an unknown word and of SYS, then the invariant under an instruction, under a fetched word
and under every other kind of step. -/

namespace Sys2Proof

variable {w w' : Word}

/-! Only family 0 decodes to SYS, and not the words of CLS and RET (R48, R50). -/

theorem decodeAlu_ne_sys (nnn : Addr) : decodeAlu w ≠ .instr (.sys nnn) := by
  unfold decodeAlu
  split <;> simp

theorem decodeKeySkip_ne_sys (nnn : Addr) : decodeKeySkip w ≠ .instr (.sys nnn) := by
  unfold decodeKeySkip
  split <;> simp

theorem decodeMisc_ne_sys (nnn : Addr) : decodeMisc w ≠ .instr (.sys nnn) := by
  unfold decodeMisc
  split <;> simp

theorem decodeRegSkip_ne_sys {build : Nibble → Nibble → Instr} (hb : ∀ x y nnn, build x y ≠ .sys nnn) (nnn : Addr) :
    decodeRegSkip build w ≠ .instr (.sys nnn) := by
  unfold decodeRegSkip
  split <;> simp [hb]

theorem wellFormed_of_decodeSystem {nnn : Addr} (h : decodeSystem w = .instr (.sys nnn)) :
    wellFormed (.sys nnn) = true := by
  unfold decodeSystem at h
  split at h
  · cases h
  · split at h
    · cases h
    · next hcls hret =>
      cases h
      simp [wellFormed, sysNamesAnother, hcls, hret]

/-- What a word decodes to is well-formed (R50, R52). -/
theorem wellFormed_of_decode {i : Instr} (h : decode w = .instr i) : wellFormed i = true := by
  cases i
  case sys nnn =>
    unfold decode at h
    split at h
    case h_1 => exact wellFormed_of_decodeSystem h
    all_goals simp [decodeAlu_ne_sys, decodeKeySkip_ne_sys, decodeMisc_ne_sys, decodeRegSkip_ne_sys] at h
  all_goals rfl

/-! The unknown words of each family (R51). -/

theorem decodeSystem_ne_unknown : decodeSystem w ≠ .unknown w' := by
  unfold decodeSystem
  split
  · simp
  · split <;> simp

theorem unknown_of_decodeRegSkip {build : Nibble → Nibble → Instr} (h : decodeRegSkip build w = .unknown w') :
    w' = w ∧ nField w ≠ 0x0#4 := by
  unfold decodeRegSkip at h
  split at h
  · cases h
  · next hn => cases h; exact ⟨rfl, hn⟩

theorem unknown_of_decodeAlu (h : decodeAlu w = .unknown w') :
    w' = w ∧ nField w ∈ [0x8#4, 0x9#4, 0xA#4, 0xB#4, 0xC#4, 0xD#4, 0xF#4] := by
  unfold decodeAlu at h
  split at h <;> cases h
  refine ⟨rfl, ?_⟩
  generalize nField w = n at *
  revert n
  decide

theorem unknown_of_decodeKeySkip (h : decodeKeySkip w = .unknown w') : w' = w ∧ kkField w ∉ [0x9E#8, 0xA1#8] := by
  unfold decodeKeySkip at h
  split at h <;> cases h
  exact ⟨rfl, by simp_all⟩

theorem unknown_of_decodeMisc (h : decodeMisc w = .unknown w') :
    w' = w ∧ kkField w ∉ [0x07#8, 0x0A#8, 0x15#8, 0x18#8, 0x1E#8, 0x29#8, 0x33#8, 0x55#8, 0x65#8] := by
  unfold decodeMisc at h
  split at h <;> cases h
  exact ⟨rfl, by simp_all⟩

/-- A word that decodes to nothing is one of those R51 lists, tagged with itself. -/
theorem unknownWord_of_decode (h : decode w = .unknown w') : w' = w ∧ Machine.UnknownWord w := by
  unfold decode at h
  unfold Machine.UnknownWord
  split at h
  case h_1 => exact absurd h decodeSystem_ne_unknown
  case h_6 hop => exact (unknown_of_decodeRegSkip h).imp_right fun hn => .inl ⟨hop, hn⟩
  case h_9 hop => exact (unknown_of_decodeAlu h).imp_right fun hn => .inr (.inl ⟨hop, hn⟩)
  case h_10 hop => exact (unknown_of_decodeRegSkip h).imp_right fun hn => .inr (.inr (.inl ⟨hop, hn⟩))
  case h_15 hop => exact (unknown_of_decodeKeySkip h).imp_right fun hk => .inr (.inr (.inr (.inl ⟨hop, hk⟩)))
  case h_16 =>
    have hop : opField w = 0xF#4 := by
      generalize opField w = op at *
      clear h
      revert op
      decide
    exact (unknown_of_decodeMisc h).imp_right fun hk => .inr (.inr (.inr (.inr ⟨hop, hk⟩)))
  all_goals cases h

end Sys2Proof

namespace Sys2Proof.Machine

variable {s t : State} {i : Instr}

/-- The invariant passes to a state with the same run state, control state and parameters. -/
theorem Inv.of_same (h : Inv s) (memory : t.mem.wf = true) (mode : t.mode = s.mode) (pc : t.pc = s.pc)
    (stack : t.stack = s.stack) (cfg : t.cfg = s.cfg) (window : s.loadOpen = false → t.loadOpen = false) : Inv t where
  memory := memory
  stackBound := by simpa [State.sp, stack, cfg] using h.stackBound
  record f hf := by
    obtain ⟨hpc, hw⟩ := h.record f (mode ▸ hf)
    refine ⟨pc.trans hpc, ?_⟩
    unfold FatalWhen at hw ⊢
    rwa [stack, cfg, State.sp, stack]
  window hm := window (h.window (mode ▸ hm))

/-- A core that is not halted has no record to answer for. -/
theorem Inv.of_not_halted (memory : t.mem.wf = true) (stackBound : ∀ d, t.cfg.stackDepth = some d → t.sp ≤ d)
    (notHalted : ∀ f, t.mode ≠ .halted f) (window : t.mode ≠ .running → t.loadOpen = false) : Inv t :=
  ⟨memory, stackBound, fun f hf => absurd hf (notHalted f), window⟩

theorem Inv.takeRequest (h : Inv s) : Inv s.takeRequest :=
  h.of_same (by simpa using h.memory) (by simp) (by simp) (by simp) (by simp) (by simp)

/-- Only the stores write memory, each by updates that keep its canonical form (R27, R29). -/
theorem exec_keeps_memory_wf (hs : s.mem.wf = true) (h : exec i s = .next t) : t.mem.wf = true := by
  cases i
  case sys => rcases exec_sys_cases h with ⟨_, rfl⟩ | ⟨_, rfl⟩ <;> exact hs
  case ret => rcases exec_ret_cases h with ⟨_, rfl⟩ | ⟨_, _, _, rfl⟩ <;> exact hs
  case call => rcases exec_call_cases h with ⟨_, rfl⟩ | ⟨_, rfl⟩ <;> exact hs
  case ldB => cases h; exact State.memWrite_wf (State.memWrite_wf (State.memWrite_wf hs _ _) _ _) _ _
  case stRegs => cases h; exact State.storeRegs_wf hs _ _
  case ldRegs => cases h; rw [State.setI_mem, State.loadRegs_eq]; exact hs
  all_goals cases h; simpa [State.writeResultThenFlag] using hs

/-- Everything an instruction can do to the stack: keep it, push PC below the depth, or pop (R21). -/
theorem exec_stack_cases (h : exec i s = .next t) :
    t.stack = s.stack ∨
      (∃ nnn, i = .call nnn ∧ s.cfg.stackDepth ≠ some s.sp ∧ t.stack = s.stack ++ [s.pc]) ∨
      (i = .ret ∧ ∃ w, s.stack = t.stack ++ [w]) := by
  by_cases hp : Part.stack ∈ instrWrites s i
  · rw [mem_instrWrites_of_other (by simp) (by simp)] at hp
    cases i <;> simp [otherWrites] at hp
    case ret =>
      rcases exec_ret_cases h with ⟨_, rfl⟩ | ⟨below, w, hs, rfl⟩
      · exact .inl rfl
      · exact .inr (.inr ⟨rfl, w, hs⟩)
    case call nnn =>
      rcases exec_call_cases h with ⟨_, rfl⟩ | ⟨hd, rfl⟩
      · exact .inl rfl
      · exact .inr (.inl ⟨nnn, rfl, hd, rfl⟩)
  · exact .inl ((exec_frame h).stack hp)

/-- A push is checked against the depth first, so SP stays within it (R19, R21). -/
theorem exec_keeps_stackBound (hs : ∀ d, s.cfg.stackDepth = some d → s.sp ≤ d) (h : exec i s = .next t) :
    ∀ d, t.cfg.stackDepth = some d → t.sp ≤ d := by
  intro d hd
  rw [exec_keeps_cfg h] at hd
  have bound : s.stack.length ≤ d := hs d hd
  change t.stack.length ≤ d
  rcases exec_stack_cases h with e | ⟨_, _, notFull, e⟩ | ⟨_, w, e⟩
  · rwa [e]
  · have : s.stack.length ≠ d := fun hl => notFull (by rw [hd, State.sp, hl])
    rw [e, List.length_append, List.length_singleton]
    omega
  · rw [e, List.length_append] at bound
    omega

/-- PC is two past A while an instruction executes (R17). -/
theorem State.pc_eq_instrAddr_add (s : State) : s.pc = s.instrAddr + 2#16 := by
  simp [State.instrAddr]

/-- The word of a well-formed SYS is of family 0 and not that of CLS or RET, as its fatal condition asks (R63, R99). -/
theorem fatalWhen_sys {nnn : Addr} (hw : wellFormed (.sys nnn) = true) (hm : s.cfg.sysMode = .fault) :
    FatalWhen s (encode (.sys nnn)) .sysUnsupported := by
  have field : nnnField (encode (.sys nnn)) = nnn := nnnField_formatN _ _
  simp only [wellFormed, sysNamesAnother, Bool.not_eq_true', Bool.or_eq_false_iff, beq_eq_false_iff_ne] at hw
  obtain ⟨notCls, notRet⟩ := hw
  refine ⟨opField_formatN _ _, fun e => notCls ?_, fun e => notRet ?_, hm⟩
  · rw [← field, e]; rfl
  · rw [← field, e]; rfl

/-- An instruction that halts the core leaves the record of a condition the state shows, with PC two past its address
(R99 to R102). -/
theorem exec_record (hw : wellFormed i = true) (hs : s.mode = .running) (h : exec i s = .next t) {f : FaultRecord}
    (hf : t.mode = .halted f) : t.pc = f.pc + 2#16 ∧ FatalWhen t f.word f.cause := by
  rcases exec_mode_cases h with e | ⟨x, _, e⟩ | ⟨nnn, rfl, hm, rfl⟩ | ⟨rfl, hstack, rfl⟩ | ⟨nnn, rfl, hd, rfl⟩
  · rw [e, hs] at hf; cases hf
  · rw [e] at hf; cases hf
  · cases hf; exact ⟨s.pc_eq_instrAddr_add, fatalWhen_sys hw hm⟩
  · cases hf; exact ⟨s.pc_eq_instrAddr_add, rfl, hstack⟩
  · cases hf; exact ⟨s.pc_eq_instrAddr_add, opField_formatN _ _, hd⟩

/-- An instruction executed in mode Running, the loader window closed, keeps the invariant. -/
theorem exec_keeps_inv (hs : Inv s) (hw : wellFormed i = true) (hm : s.mode = .running) (ho : s.loadOpen = false)
    (h : exec i s = .next t) : Inv t where
  memory := exec_keeps_memory_wf hs.memory h
  stackBound := exec_keeps_stackBound hs.stackBound h
  record _ hf := exec_record hw hm h hf
  window _ := (exec_frame h).loadOpen.trans ho

/-- The fetched word is an instruction, or it is unknown and its record names it (R51, R54). -/
theorem runInstruction_keeps_inv (hs : Inv s) (hm : s.mode = .running) (ho : s.loadOpen = false)
    (h : runInstruction s = .next t) : Inv t := by
  cases hd : decode s.fetchWord with
  | instr i =>
    rw [runInstruction_instr hd] at h
    have advanced : Inv s.advancePC := .of_not_halted hs.memory hs.stackBound (by simp [hm]) (by simp [hm])
    exact exec_keeps_inv advanced (wellFormed_of_decode hd) hm ho h
  | unknown w =>
    rw [runInstruction_unknown hd] at h
    cases h
    obtain ⟨rfl, hu⟩ := unknownWord_of_decode hd
    exact ⟨hs.memory, hs.stackBound, fun f hf => by cases hf; exact ⟨rfl, hu⟩, fun _ => ho⟩

/-- Sampling the inputs changes nothing the invariant speaks of but the loader window, which it closes. -/
theorem Inv.sample (h : Inv s) (key : Option Byte) (rand : Byte) : Inv (s.sample key rand) :=
  h.of_same h.memory rfl rfl rfl rfl fun _ => rfl

/-- A wait step either changes nothing or goes back to Running (R92). -/
theorem State.waitStep_keeps_inv (h : Inv s) (x : Nibble) : Inv (s.waitStep x) := by
  cases hk : s.key with
  | none => rwa [State.waitStep_of_none hk]
  | some k =>
    rw [State.waitStep_of_key hk]
    exact .of_not_halted h.memory h.stackBound (by simp) (by simp)

/-- A reset gives an empty memory and stack in mode Running (R120). -/
theorem State.resetCore_inv (s : State) : Inv s.resetCore :=
  .of_not_halted rfl (fun _ _ => Nat.zero_le _) (by simp [State.reset]) (by simp [State.reset])

/-- Settles O57, by the kind of step: each is shown to keep the invariant of the state with the request taken. -/
theorem everyStepKeepsTheInvariant : Obligations.EveryStepKeepsTheInvariant := by
  intro s t hs h
  have taken := hs.takeRequest
  rcases step_cases h with ⟨key, rand, _, hm, running⟩ | ⟨key, rand, x, _, _, rfl⟩ | ⟨_, _, _, _, _, rfl⟩ |
    ⟨_, rfl⟩ | ⟨_, rfl⟩ | ⟨a, d, _, _, rfl⟩
  · exact runInstruction_keeps_inv (taken.sample key rand) (by simpa using hm) rfl running
  · exact State.waitStep_keeps_inv (taken.sample key rand) x
  · exact taken
  · exact taken.of_same (by simpa using hs.memory) (by simp) (by simp) (by simp) (by simp) (by simp)
  · exact State.resetCore_inv _
  · exact taken.of_same (State.memWrite_wf taken.memory _ _) rfl rfl rfl rfl id

end Sys2Proof.Machine
end

section
/-! Which instructions, and which steps, can change VF, I, the screen, the timers, the stack and PC (spec/10_state.md
R13, R14, R16, R18, R19, R22, R23, spec/70_reset_and_hazards.md R120). An instruction changes its footprint; a step
resets, executes an instruction, or does one of the few things `ExecutesNothing` lists. -/

namespace Sys2Proof.Machine

variable {s t : State} {i : Instr}

/-! Instructions. -/

theorem writesI_of_exec (h : exec i s = .next t) (hne : t.i ≠ s.i) : writesI s.cfg i = true :=
  i_mem_instrWrites.1 (Not.imp_symm (exec_frame h).i hne)

theorem mem_vWrites_of_exec {r : Nibble} (h : exec i s = .next t) (hne : t.getV r ≠ s.getV r) : r ∈ vWrites i :=
  v_mem_instrWrites.1 (Not.imp_symm ((exec_frame h).v r) hne)

theorem screen_writer_of_exec (h : exec i s = .next t) (hne : t.fb ≠ s.fb) : i = .cls ∨ ∃ x y n, i = .drw x y n := by
  have noPixel : ∀ c r, Part.pixel c r ∉ instrWrites s i := fun c r hp => by
    have hw := (mem_instrWrites_of_other (by simp) (by simp)).1 hp
    cases i <;> simp [otherWrites] at hw
  have hw : Part.screen ∈ otherWrites s i := (mem_instrWrites_of_other (by simp) (by simp)).1
    (Not.imp_symm (fun hs => (exec_frame h).fb_eq hs noPixel) hne)
  cases i <;> simp [otherWrites] at hw ⊢

theorem dt_writer_of_exec (h : exec i s = .next t) (hne : t.dt ≠ s.dt) : ∃ x, i = .ldDTVx x := by
  have hw : Part.dt ∈ otherWrites s i := (mem_instrWrites_of_other (by simp) (by simp)).1
    (Not.imp_symm (exec_frame h).dt hne)
  cases i <;> simp [otherWrites] at hw ⊢

theorem st_writer_of_exec (h : exec i s = .next t) (hne : t.st ≠ s.st) : ∃ x, i = .ldSTVx x := by
  have hw : Part.st ∈ otherWrites s i := (mem_instrWrites_of_other (by simp) (by simp)).1
    (Not.imp_symm (exec_frame h).st hne)
  cases i <;> simp [otherWrites] at hw ⊢

/-- The table of R14 lists VF for the flag writers and for the instructions that name it as a destination (R13). -/
theorem vf_writers (h : 0xF#4 ∈ vWrites i) :
    writesFlag i = true ∨ (∃ kk, i = .ldByte 0xF#4 kk ∨ i = .addByte 0xF#4 kk ∨ i = .rnd 0xF#4 kk) ∨
      (∃ y, i = .ldReg 0xF#4 y ∨ i = .orReg 0xF#4 y ∨ i = .andReg 0xF#4 y ∨ i = .xorReg 0xF#4 y) ∨
      i = .ldVxDT 0xF#4 ∨ i = .ldRegs 0xF#4 := by
  cases i
  case ldRegs x =>
    have hx : x = 0xF#4 := by
      rw [vWrites, mem_vUpTo] at h
      bv_omega
    simp [hx]
  all_goals simp_all [vWrites, writesFlag]

/-- An instruction that changes the stack is CALL, with SP one more, or RET, with SP one less (R19). -/
theorem stack_writer_of_exec (h : exec i s = .next t) (hne : t.stack ≠ s.stack) :
    (∃ nnn, i = .call nnn) ∧ t.sp = s.sp + 1 ∨ i = .ret ∧ t.sp + 1 = s.sp := by
  rcases exec_stack_cases h with e | ⟨nnn, rfl, _, e⟩ | ⟨rfl, w, e⟩
  · exact absurd e hne
  · exact .inl ⟨⟨nnn, rfl⟩, by simp [State.sp, e]⟩
  · exact .inr ⟨rfl, by simp [State.sp, e]⟩

/-- A skip advances PC by a further 2 exactly when its condition holds (R56). -/
theorem exec_skip {p : Prop} (h : skipCondition s i = some p) :
    ∃ c : Bool, (c = true ↔ p) ∧ exec i s = .next (s.skipIf c) := by
  cases i <;> cases h <;> exact ⟨_, by simp [State.keyIs], rfl⟩

/-- Of the instructions with PC in their footprint, those that set no target are the skips (R18). -/
theorem pc_writers (h : .pc ∈ otherWrites s i) : setsPC i = true ∨ ∃ p, skipCondition s i = some p := by
  cases i
  case jp | jpV0 | call | ret => exact .inl rfl
  case seByte | sneByte | seReg | sneReg | skp | sknp => exact .inr ⟨_, rfl⟩
  all_goals simp [otherWrites] at h

/-- Everything an instruction can do to PC (R18, R56). -/
theorem pc_writer_of_exec (h : exec i s = .next t) (hne : t.pc ≠ s.pc) :
    setsPC i = true ∨ t.pc = s.pc + 2#16 ∧ ∃ p, skipCondition s i = some p ∧ p := by
  have hw : Part.pc ∈ otherWrites s i := (mem_instrWrites_of_other (by simp) (by simp)).1
    (Not.imp_symm (exec_frame h).pc hne)
  refine (pc_writers hw).imp_right fun ⟨p, hp⟩ => ?_
  obtain ⟨c, hc, e⟩ := exec_skip hp
  cases e.symm.trans h
  cases c
  · exact absurd rfl hne
  · exact ⟨rfl, p, hp, hc.1 rfl⟩

/-- A skip's condition does not look at PC. -/
theorem skipCondition_advancePC : skipCondition s.advancePC i = skipCondition s i := by
  cases i <;> rfl

/-! Steps. -/

/-- What a step that neither resets nor executes an instruction does to the registers, the screen, the stack and PC: a
wait step may load its register (R92), and the fetch of an unknown word advances PC (R54). -/
structure ExecutesNothing (s t : State) : Prop where
  v : ∀ r, t.getV r ≠ s.getV r → ∃ key rand, s.nextRequest = .execute key rand ∧ s.mode = .awaitingKey r
  i : t.i = s.i
  fb : t.fb = s.fb
  stack : t.stack = s.stack
  pc : t.pc ≠ s.pc → ∃ key rand, s.nextRequest = .execute key rand ∧ s.mode = .running ∧ t.pc = s.pc + 2#16

/-- A step that keeps all of these. -/
theorem ExecutesNothing.of_same (v : t.v = s.v) (i : t.i = s.i) (fb : t.fb = s.fb) (stack : t.stack = s.stack)
    (pc : t.pc = s.pc) : ExecutesNothing s t :=
  ⟨fun r hr => absurd (by simp [State.getV, v]) hr, i, fb, stack, fun hp => absurd pc hp⟩

/-- A fetched word is executed as an instruction, or is unknown and executes nothing (R54). -/
theorem runInstruction_cases (h : runInstruction s = .next t) :
    (∃ i, decode s.fetchWord = .instr i ∧ exec i s.advancePC = .next t) ∨
      ∃ w, decode s.fetchWord = .unknown w ∧ t = s.advancePC.raiseFatal .unknownInstruction s.pc w := by
  cases hd : decode s.fetchWord with
  | instr i => exact .inl ⟨i, rfl, by rwa [runInstruction_instr hd] at h⟩
  | unknown w =>
    rw [runInstruction_unknown hd] at h
    cases h
    exact .inr ⟨w, rfl, rfl⟩

/-- Every step resets, executes the decoded instruction past the fetch's advance, or executes nothing. -/
theorem step_cases_exec (h : step s = .next t) :
    s.nextRequest = .reset ∨
      (∃ key rand i, s.nextRequest = .execute key rand ∧ s.mode = .running ∧ decode s.fetchWord = .instr i ∧
        exec i (s.sampled key rand).advancePC = .next t) ∨
      ExecutesNothing s t := by
  rcases step_cases h with ⟨key, rand, hq, hm, running⟩ | ⟨key, rand, x, hq, hm, rfl⟩ | ⟨_, _, _, _, _, rfl⟩ |
    ⟨_, rfl⟩ | ⟨hq, _⟩ | ⟨_, _, _, _, rfl⟩
  · rcases runInstruction_cases running with ⟨i, hd, he⟩ | ⟨w, _, rfl⟩
    · exact .inr (.inl ⟨key, rand, i, hq, hm, by simpa using hd, he⟩)
    · exact .inr (.inr ⟨by simp, by simp, by simp, by simp, fun _ => ⟨key, rand, hq, hm, by simp⟩⟩)
  · refine .inr (.inr ⟨fun r hr => ⟨key, rand, hq, ?_⟩, by simp, by simp, by simp, by simp⟩)
    by_contra hx
    have other : Part.v r ∉ [Part.v x, Part.mode] := by simpa using fun e : r = x => hx (e ▸ hm)
    exact hr (by simpa using ((s.takeRequest.sample key rand).waitStep_frame x).v r other)
  · exact .inr (.inr (.of_same (by simp) (by simp) (by simp) (by simp) (by simp)))
  · exact .inr (.inr (.of_same (by simp) (by simp) (by simp) (by simp) (by simp)))
  · exact .inl hq
  · exact .inr (.inr (.of_same (by simp) (by simp) (by simp) (by simp) (by simp)))

/-- Settles O37: an instruction by its footprint and the table's entries for VF, a step by its kind. -/
theorem onlyListedInstructionsWriteVF : Obligations.OnlyListedInstructionsWriteVF := by
  refine ⟨fun i s t h hne => vf_writers (mem_vWrites_of_exec h hne), fun s t h hne => ?_⟩
  rcases step_cases_exec h with reset | ⟨key, rand, i, hq, hm, hd, he⟩ | nothing
  · exact .inl reset
  · have written := mem_vWrites_of_exec he (r := 0xF#4) (by simpa [State.sampled] using hne)
    exact .inr ⟨key, rand, hq, .inr ⟨hm, i, hd, written⟩⟩
  · obtain ⟨key, rand, hq, hm⟩ := nothing.v _ hne
    exact .inr ⟨key, rand, hq, .inl hm⟩

/-- Settles O40: an instruction by its footprint, a step by its kind. -/
theorem onlyListedInstructionsWriteI : Obligations.OnlyListedInstructionsWriteI := by
  refine ⟨fun i s t => writesI_of_exec, fun s t h hne => ?_⟩
  rcases step_cases_exec h with reset | ⟨key, rand, i, hq, hm, hd, he⟩ | nothing
  · exact .inl reset
  · have written := writesI_of_exec he (by simpa [State.sampled] using hne)
    exact .inr ⟨key, rand, i, hq, hm, hd, by simpa [State.sampled] using written⟩
  · exact absurd nothing.i hne

/-- Settles O46: an instruction by its footprint, a step by its kind. -/
theorem onlyClearAndDrawChangeTheScreen : Obligations.OnlyClearAndDrawChangeTheScreen := by
  refine ⟨fun i s t => screen_writer_of_exec, fun s t h hne => ?_⟩
  rcases step_cases_exec h with reset | ⟨key, rand, i, hq, hm, hd, he⟩ | nothing
  · exact .inl reset
  · have written := screen_writer_of_exec he (by simpa [State.sampled] using hne)
    exact .inr ⟨key, rand, hq, hm, by simpa [hd] using written⟩
  · exact absurd nothing.fb hne

/-- Settles O49, by the footprint of an instruction. -/
theorem onlyTimerLoadsChangeTheTimers : Obligations.OnlyTimerLoadsChangeTheTimers :=
  fun _ _ _ h => ⟨dt_writer_of_exec h, st_writer_of_exec h⟩

/-- The step that executes an instruction moves PC by the fetch and then as the instruction does. -/
theorem pc_writer_of_step {key : Option Byte} {rand : Byte} (h : exec i (s.sampled key rand).advancePC = .next t) :
    t.pc = s.pc + 2#16 ∨ setsPC i = true ∨
      t.pc = s.pc + 4#16 ∧ ∃ p, skipCondition (s.sampled key rand) i = some p ∧ p := by
  have fetched : (s.sampled key rand).advancePC.pc = s.pc + 2#16 := by simp [State.sampled]
  by_cases hne : t.pc = s.pc + 2#16
  · exact .inl hne
  · rcases pc_writer_of_exec h (by rwa [fetched]) with target | ⟨hpc, hp⟩
    · exact .inr (.inl target)
    · rw [fetched, BitVec.add_assoc] at hpc
      exact .inr (.inr ⟨hpc, by rwa [skipCondition_advancePC] at hp⟩)

/-- Settles O56: an instruction by its footprint and what CALL, RET and a skip do, a step by its kind. -/
theorem onlyControlTransfersChangeStackAndPC : Obligations.OnlyControlTransfersChangeStackAndPC := by
  refine ⟨fun i s t => stack_writer_of_exec, fun i s t => pc_writer_of_exec, fun s t h hne => ?_, fun s t h hne => ?_⟩
  · rcases step_cases_exec h with reset | ⟨key, rand, i, hq, hm, hd, he⟩ | nothing
    · exact .inl reset
    · have written := stack_writer_of_exec he (by simpa [State.sampled] using hne)
      exact .inr ⟨key, rand, hq, hm, by simpa [hd, State.sampled, State.sp] using written⟩
    · exact absurd nothing.stack hne
  · rcases step_cases_exec h with reset | ⟨key, rand, i, hq, hm, hd, he⟩ | nothing
    · exact .inl reset
    · exact .inr ⟨key, rand, hq, hm, (pc_writer_of_step he).imp_right fun moved => ⟨i, hd, moved⟩⟩
    · obtain ⟨key, rand, hq, hm, hpc⟩ := nothing.pc hne
      exact .inr ⟨key, rand, hq, hm, .inl hpc⟩

end Sys2Proof.Machine
end

section
/-! Ticks in a row (spec/10_state.md R22, spec/60_exceptions.md R107), by induction on their number. -/

namespace Sys2Proof.Machine

variable {s t : State}

/-- A run goes on from the state its first step answers. -/
theorem run_succ (n : Nat) (h : step s = .next t) :
    Host.Core.run Sys2Proof.core (n + 1) s = Host.Core.run Sys2Proof.core n t := by
  have hc : Sys2Proof.core.step s = .next t := h
  simp only [Host.Core.run, hc]

/-- Ticks at the head of the script count both timers down, one each, outside Halted. -/
theorem ticks_count_down (n : Nat) {rest : List HostRequest} (hs : s.script = List.replicate n .tick ++ rest)
    (hm : ∀ f, s.mode ≠ .halted f) :
    ∃ t, Host.Core.run Sys2Proof.core n s = .next t ∧ t.dt.toNat = s.dt.toNat - n ∧ t.st.toNat = s.st.toNat - n ∧
      SameOutside [.dt, .st] { s with script := rest } t := by
  induction n generalizing s with
  | zero =>
    cases hs
    exact ⟨s, rfl, rfl, rfl, SameOutside.rfl' _ s⟩
  | succ n ih =>
    have hq : s.script = .tick :: (List.replicate n .tick ++ rest) := hs
    have ticked : s.takeRequest.tickStep =
        (s.takeRequest.setDT (countDown s.dt)).setST (countDown s.st) := by
      rw [State.tickStep_of_not_halted (by simpa using hm), State.takeRequest_dt, State.takeRequest_st]
    have left : s.takeRequest.tickStep.script = List.replicate n .tick ++ rest := by
      rw [State.tickStep_script, State.takeRequest_of_script hq]
    obtain ⟨t, hrun, hdt, hst, frame⟩ := ih left (by simpa using hm)
    refine ⟨t, ?_, ?_, ?_, ?_⟩
    · rw [run_succ n (step_tick (State.nextRequest_of_script hq)), hrun]
    · rw [hdt, ticked, State.setST_dt, State.setDT_dt, countDown_toNat]
      omega
    · rw [hst, ticked, State.setST_st, countDown_toNat]
      omega
    · rw [ticked, State.takeRequest_of_script hq] at frame
      exact (((State.setDT_frame { s with script := rest } _).trans (State.setST_frame _ _)).trans frame).mono
        (by simp)

/-- Settles O14, by induction on the number of ticks. -/
theorem ticksCountTimersDownToZero : Obligations.TicksCountTimersDownToZero :=
  fun n _ _ hs hm => ticks_count_down n hs hm

end Sys2Proof.Machine
end

section
/-! Which V registers an instruction reads and writes (spec/10_state.md R14): two states that differ only in V registers
an instruction does not read get the same values in the registers it writes, and differ after it in V registers only. -/

namespace Sys2Proof.Machine

variable {s t t' : State} {i : Instr} {v' : Vector Byte 16} {x y : Nibble}

/-- The state with all V registers replaced. -/
def State.withV (s : State) (v' : Vector Byte 16) : State := { s with v := v' }

/-- The registers an instruction reads hold the same with the other V registers (R14). -/
def ReadsAgree (s : State) (v' : Vector Byte 16) (i : Instr) : Prop :=
  ∀ r, r ∈ vReads s.cfg.shiftSource i → (s.withV v').getV r = s.getV r

/-! What the operations read beside a single register. -/

/-- The operand of a shift is the one register the table lists for it, the same for SHR and SHL (R78, R80). -/
theorem State.shiftOperand_withV (hr : ReadsAgree s v' (.shr x y)) :
    (s.withV v').shiftOperand x y = s.shiftOperand x y := by
  have same : (s.withV v').cfg = s.cfg := rfl
  cases hs : s.cfg.shiftSource with
  | x =>
    simp only [State.shiftOperand, same, hs]
    exact hr x (by simp [vReads, hs])
  | y =>
    simp only [State.shiftOperand, same, hs]
    exact hr y (by simp [vReads, hs])

/-- A skip moves PC alone (R56). -/
theorem State.skipIf_withV (c : Bool) : ((s.withV v').skipIf c).withV (s.skipIf c).v = s.skipIf c := by
  cases c <;> rfl

/-- A sprite is drawn from memory and I onto the screen: no register is read. -/
theorem State.plotSprite_withV (b : Byte) (cx : Column) (cy : Row) (n : Nat) :
    ((s.withV v').setV regF b).plotSprite cx cy n = (s.setV regF b).plotSprite cx cy n := rfl

/-- The store loop reads the registers it stores. -/
theorem State.storeRegs_withV {base count : Nat}
    (hr : ∀ k, k < count → (s.withV v').getV (BitVec.ofNat 4 k) = s.getV (BitVec.ofNat 4 k)) :
    (s.withV v').storeRegs base count = (s.storeRegs base count).withV v' := by
  induction count with
  | zero => rfl
  | succ n ih =>
    have last := hr n (by omega)
    rw [State.storeRegs_succ, State.storeRegs_succ, State.getV_storeRegs, State.getV_storeRegs, last,
      ih fun k hk => hr k (by omega)]
    rfl

/-! The values written. -/

theorem State.getV_setV_congr {u : State} {a b : Byte} (h : a = b) :
    ∀ r, r ∈ [x] → (u.setV x a).getV r = (s.setV x b).getV r := by
  simp [h]

theorem State.getV_writeResultThenFlag_congr {u : State} {a b : Byte} {c d : Bool} (h : a = b) (hc : c = d) :
    ∀ r, r ∈ [x, regF] → (u.writeResultThenFlag x a c).getV r = (s.writeResultThenFlag x b d).getV r := by
  simp [h, hc, State.getV_writeResultThenFlag]

/-- What an instruction writes into V registers is a function of those it reads and of the rest of the state. -/
theorem exec_writes_of_reads (hr : ReadsAgree s v' i) (h : exec i s = .next t) (h' : exec i (s.withV v') = .next t') :
    ∀ r, r ∈ vWrites i → t'.getV r = t.getV r := by
  cases i
  case ldByte | rnd | ldVxDT => cases h; cases h'; exact State.getV_setV_congr rfl
  case addByte | ldReg | orReg | andReg | xorReg =>
    simp only [ReadsAgree, vReads, List.forall_mem_cons] at hr
    cases h; cases h'
    exact State.getV_setV_congr (by simp [hr])
  case addReg | subReg | subn =>
    simp only [ReadsAgree, vReads, List.forall_mem_cons] at hr
    cases h; cases h'
    exact State.getV_writeResultThenFlag_congr (by simp [hr]) (by simp [hr])
  case shr | shl =>
    have operand := State.shiftOperand_withV hr
    cases h; cases h'
    exact State.getV_writeResultThenFlag_congr (by rw [operand]) (by rw [operand])
  case drw =>
    simp only [ReadsAgree, vReads, List.forall_mem_cons] at hr
    cases h; cases h'
    exact State.getV_setV_congr (by simp [hr, State.plotSprite_withV])
  case ldRegs x =>
    intro r hw
    rw [vWrites, mem_vUpTo] at hw
    have hx := x.isLt
    cases h; cases h'
    rw [State.getV_setI, State.getV_setI, State.getV_loadRegs _ (by omega), State.getV_loadRegs _ (by omega),
      if_pos (by omega), if_pos (by omega)]
    rfl
  all_goals simp [vWrites]

/-- What an instruction does beside the V registers is a function of those it reads and of the rest of the state. -/
theorem exec_rest_of_reads (hr : ReadsAgree s v' i) (h : exec i s = .next t) (h' : exec i (s.withV v') = .next t') :
    t'.withV t.v = t := by
  cases i
  case sys =>
    rcases exec_sys_cases h with ⟨hm, rfl⟩ | ⟨hm, rfl⟩ <;> rcases exec_sys_cases h' with ⟨hm', rfl⟩ | ⟨hm', rfl⟩
    · rfl
    · cases hm.symm.trans hm'
    · cases hm.symm.trans hm'
    · rfl
  case ret =>
    rcases exec_ret_cases h with ⟨hs, rfl⟩ | ⟨below, w, hs, rfl⟩ <;>
      rcases exec_ret_cases h' with ⟨hs', rfl⟩ | ⟨below', w', hs', rfl⟩
    · rfl
    · simpa using hs.symm.trans hs'
    · simpa using hs.symm.trans hs'
    · obtain ⟨rfl, hw⟩ := List.append_inj' (hs.symm.trans hs') rfl
      cases hw
      rfl
  case call =>
    rcases exec_call_cases h with ⟨hd, rfl⟩ | ⟨hd, rfl⟩ <;> rcases exec_call_cases h' with ⟨hd', rfl⟩ | ⟨hd', rfl⟩
    · rfl
    · exact absurd hd hd'
    · exact absurd hd' hd
    · rfl
  case seByte | sneByte | seReg | sneReg | skp | sknp =>
    simp only [ReadsAgree, vReads, List.forall_mem_cons] at hr
    cases h; cases h'
    simp only [hr]
    exact State.skipIf_withV _
  case jpV0 | ldDTVx | ldSTVx | addI | ldF | ldB =>
    simp only [ReadsAgree, vReads, List.forall_mem_cons] at hr
    cases h; cases h'
    simp only [hr, State.offsetTarget]
    rfl
  case drw =>
    simp only [ReadsAgree, vReads, List.forall_mem_cons] at hr
    cases h; cases h'
    simp only [hr, State.plotSprite_withV]
    rfl
  case stRegs x =>
    have stored : ∀ k, k < x.toNat + 1 → (s.withV v').getV (BitVec.ofNat 4 k) = s.getV (BitVec.ofNat 4 k) :=
      fun k hk => hr _ (List.mem_map_of_mem (List.mem_range.2 hk))
    cases h; cases h'
    rw [State.storeRegs_withV stored]
    rfl
  case ldRegs x =>
    cases h; cases h'
    rw [State.loadRegs_eq s, State.loadRegs_eq (s.withV v')]
    rfl
  all_goals cases h; cases h'; rfl

/-- Settles O38: an instruction writes within its footprint, a wait step within its own, and what both states read is
the same. -/
theorem registerAccessIsTheListed : Obligations.RegisterAccessIsTheListed := by
  refine ⟨fun i s t h r hw => (exec_frame h).v r (mt v_mem_instrWrites.1 hw), fun s t key rand x hq hm h r hr => ?_,
    fun i s t t' v' hr h h' => ⟨exec_writes_of_reads hr h h', exec_rest_of_reads hr h h'⟩⟩
  rw [step_awaiting hq hm] at h
  cases h
  simpa using (State.waitStep_frame (s.takeRequest.sample key rand) x).v r (by simpa using hr)

end Sys2Proof.Machine
end

section
/-! What the fetch reads (spec/20_memory.md R28, R30, R32, R39, spec/30_encoding.md R43): the word at PC, and the bytes a
store has just put there (spec/49_bcd_block.md R96, R97, spec/70_reset_and_hazards.md R127). -/

namespace Sys2Proof.Machine

variable {s t : State} {i : Instr} {x : Nibble} {key : Option Byte} {rand : Byte} {count : Nat} {stored : Nat → Byte}

/-- Addresses that agree mod 4096 reach one byte (R28). -/
theorem State.memRead_congr {a b : Nat} (h : memAddr a = memAddr b) : s.memRead a = s.memRead b := by
  rw [State.memRead, State.memRead, h]

/-- A register is read from the V registers alone (R12). -/
theorem State.getV_congr (h : t.v = s.v) (r : Nibble) : t.getV r = s.getV r := by
  simp only [State.getV, h]

/-- The byte at the lower address is the high byte (R30). -/
theorem wordOfBytes_toNat (high low : Byte) : (wordOfBytes high low).toNat = 256 * high.toNat + low.toNat := by
  have joined := Nat.shiftLeft_add_eq_or_of_lt low.isLt high.toNat
  rw [wordOfBytes, BitVec.toNat_append, ← joined, Nat.shiftLeft_eq]
  omega

/-- Settles O8: the fetched word as a number, and the byte above the top of memory at address 0. -/
theorem fetchIsBigEndianAndWraps : Obligations.FetchIsBigEndianAndWraps := by
  refine fun s => ⟨wordOfBytes_toNat _ _, fun top => ?_⟩
  have wraps : memAddr (s.pc.toNat + 1) = 0 := by
    rw [memAddr_eq]
    omega
  rw [State.fetchWord_low, State.memRead, wraps]

/-- The bytes from I on, `count` of them, as parts of the state. -/
def blockBytes (s : State) (count : Nat) : List Part :=
  (List.range count).map fun k => .byte (memAddr (s.i.toNat + k))

theorem byte_mem_blockBytes {a : Nat} :
    .byte (memAddr a) ∈ blockBytes s count ↔ ∃ k, k < count ∧ memAddr (s.i.toNat + k) = memAddr a := by
  simp [blockBytes]

/-- Each byte of the next fetch is read from memory as the store left it: a byte of the block, or an old one. -/
theorem nextFetch_of_stored (block : ∀ k, k < count → t.memRead (s.i.toNat + k) = stored k)
    (rest : ∀ a, .byte (memAddr a) ∉ blockBytes s count → t.memRead a = s.memRead a) : NextFetch s t count stored := by
  have outside {a : Nat} (h : ∀ k, k < count → memAddr (s.i.toNat + k) ≠ memAddr a) : t.memRead a = s.memRead a :=
    rest a fun hb => by
      obtain ⟨k, hk, meet⟩ := byte_mem_blockBytes.1 hb
      exact h k hk meet
  refine ⟨fun k hk meet => ?_, fun k hk meet => ?_, fun apart => ?_, fun apart => ?_⟩
  · rw [State.fetchWord_high, ← State.memRead_congr meet, block k hk]
  · rw [State.fetchWord_low, ← State.memRead_congr meet, block k hk]
  · rw [State.fetchWord_high, outside apart]
  · rw [State.fetchWord_low, outside apart]

/-- A step that stores a block, and by its footprint changes nothing else but perhaps I, goes on Running with PC past
the instruction, and the next fetch sees the block. -/
theorem fetch_after_store_step (hq : s.nextRequest = .execute key rand) (hm : s.mode = .running)
    (h : step s = .next t) (hd : decode s.fetchWord = .instr i)
    (footprint : ∀ u, otherWrites u i = blockBytes u count)
    (block : ∀ u, exec i u = .next t → u.v = s.v → ∀ k, k < count → t.memRead (u.i.toNat + k) = stored k) :
    t.mode = .running ∧ t.pc = s.pc + 2#16 ∧ NextFetch s t count stored := by
  rw [step_running hq hm, runInstruction_instr (by simpa using hd)] at h
  have frame := exec_frame h
  have kept {p : Part} (hv : ∀ r, p ≠ .v r) (hi : p ≠ .i) (hp : p ∉ blockBytes s count) :
      p ∉ instrWrites (s.takeRequest.sample key rand).advancePC i := by
    rw [mem_instrWrites_of_other hv hi, footprint]
    simpa [blockBytes] using hp
  refine ⟨?_, ?_, nextFetch_of_stored ?_ fun a ha => ?_⟩
  · simpa [hm] using frame.mode (kept (by simp) (by simp) (by simp [blockBytes]))
  · simpa using frame.pc (kept (by simp) (by simp) (by simp [blockBytes]))
  · simpa using block _ h (by simp)
  · simpa using frame.byte a (kept (by simp) (by simp) ha)

/-- Fx55 leaves register k at offset k of its block (R97). -/
theorem memRead_of_exec_stRegs (h : exec (.stRegs x) s = .next t) {k : Nat} (hk : k < x.toNat + 1) :
    t.memRead (s.i.toNat + k) = s.getV (BitVec.ofNat 4 k) := by
  cases h
  exact s.memRead_storeRegs x.isLt hk

/-- A byte is below 1000, so its hundreds are one digit. -/
theorem bcdHundreds_eq (b : Byte) : bcdHundreds b = BitVec.ofNat 8 (b.toNat / 10 ^ 2 % 10) := by
  have hb := b.isLt
  exact congrArg (BitVec.ofNat 8) (Nat.mod_eq_of_lt (by omega)).symm

/-- Fx33 leaves the decimal digit of weight 100, 10 or 1 at offset 0, 1 or 2 (R96): no two of the three addresses
meet. -/
theorem memRead_of_exec_ldB (h : exec (.ldB x) s = .next t) {k : Nat} (hk : k < 3) :
    t.memRead (s.i.toNat + k) = BitVec.ofNat 8 ((s.getV x).toNat / 10 ^ (2 - k) % 10) := by
  have apart {m n : Nat} (hm : m < 3) (hn : n < 3) (hne : m ≠ n) :
      memAddr (s.i.toNat + m) ≠ memAddr (s.i.toNat + n) :=
    mt (memAddr_add_inj (by rw [memSize_eq]; omega) (by rw [memSize_eq]; omega)).1 hne
  cases h
  match k, hk with
  | 0, _ =>
    rw [State.memRead_memWrite, if_neg (apart (by decide) (by decide) (by decide)), State.memRead_memWrite,
      if_neg (apart (by decide) (by decide) (by decide))]
    exact (s.memRead_memWrite_same _ _).trans (bcdHundreds_eq _)
  | 1, _ =>
    rw [State.memRead_memWrite, if_neg (apart (by decide) (by decide) (by decide))]
    exact State.memRead_memWrite_same _ _ _
  | 2, _ => simp [bcdOnes]

/-- Settles O54: the footprint of Fx55 and of Fx33 is the block each stores. -/
theorem fetchSeesAStoreAtOnce : Obligations.FetchSeesAStoreAtOnce := by
  refine fun s t key rand x hq hm h => ⟨fun hd => ?_, fun hd => ?_⟩
  · refine fetch_after_store_step hq hm h hd (fun _ => rfl) fun u he hv k hk => ?_
    rw [memRead_of_exec_stRegs he hk, State.getV_congr hv]
  · refine fetch_after_store_step hq hm h hd (fun _ => rfl) fun u he hv k hk => ?_
    rw [memRead_of_exec_ldB he hk, State.getV_congr hv]

end Sys2Proof.Machine
end

section
/-! What stops the model and what changes memory (spec/20_memory.md R28, R29, R41, spec/60_exceptions.md R99, R100,
spec/70_reset_and_hazards.md R120; logs 7, 8): an instruction by its constructor, a step by its kind. -/

namespace Sys2Proof.Machine

variable {s t : State} {i : Instr}

/-- The three instructions that can raise a fatal condition answer a next state either way (R100); every other one is
one chain of state updates. -/
theorem exec_answers (i : Instr) (s : State) : ∃ t, exec i s = .next t := by
  cases i
  case sys =>
    simp only [exec, execSys]
    split <;> exact ⟨_, rfl⟩
  case ret =>
    simp only [exec, execRet]
    split <;> exact ⟨_, rfl⟩
  case call =>
    simp only [exec, execCall]
    split <;> exact ⟨_, rfl⟩
  all_goals exact ⟨_, rfl⟩

/-- An unknown word answers a next state too, in mode Halted (R51, R54). -/
theorem runInstruction_answers (s : State) : ∃ t, runInstruction s = .next t := by
  cases hd : decode s.fetchWord with
  | instr i => rw [runInstruction_instr hd]; exact exec_answers i _
  | unknown w => exact ⟨_, runInstruction_unknown hd⟩

/-- Settles O19, by the kind of step: only a loader write has a case without a next state. -/
theorem onlyALateLoadStopsTheModel : Obligations.OnlyALateLoadStopsTheModel := by
  refine ⟨exec_answers, fun s => ?_⟩
  cases hq : s.nextRequest with
  | execute key rand =>
    cases hm : s.mode with
    | running => rw [step_running hq hm]; exact .inl (runInstruction_answers _)
    | awaitingKey x => exact .inl ⟨_, step_awaiting hq hm⟩
    | halted f => exact .inl ⟨_, step_halted hq hm⟩
  | tick => exact .inl ⟨_, step_tick hq⟩
  | reset => exact .inl ⟨_, step_reset hq⟩
  | load a d =>
    cases ho : s.loadOpen with
    | true => exact .inl ⟨_, step_load_open hq ho⟩
    | false => exact .inr ⟨step_load_closed hq ho, rfl, a, d, rfl⟩

/-- Fx33 and Fx55 store; every other instruction leaves memory (R29). -/
theorem mem_writer_of_exec (h : exec i s = .next t) (hne : t.mem ≠ s.mem) : ∃ x, i = .ldB x ∨ i = .stRegs x := by
  cases i
  case ldB x => exact ⟨x, .inl rfl⟩
  case stRegs x => exact ⟨x, .inr rfl⟩
  case sys => rcases exec_sys_cases h with ⟨_, rfl⟩ | ⟨_, rfl⟩ <;> exact absurd rfl hne
  case ret => rcases exec_ret_cases h with ⟨_, rfl⟩ | ⟨_, _, _, rfl⟩ <;> exact absurd rfl hne
  case call => rcases exec_call_cases h with ⟨_, rfl⟩ | ⟨_, rfl⟩ <;> exact absurd rfl hne
  case ldRegs => cases h; rw [State.setI_mem, State.loadRegs_eq] at hne; exact absurd rfl hne
  all_goals cases h; exact absurd (by simp [State.writeResultThenFlag]) hne

/-- Settles O55: a step that executes no instruction and is neither a loader write nor a reset leaves memory. -/
theorem onlyStoresChangeMemory : Obligations.OnlyStoresChangeMemory := by
  refine ⟨fun i s t => mem_writer_of_exec, fun s t h hne => ?_⟩
  rcases step_cases h with ⟨key, rand, hq, hm, running⟩ | ⟨_, _, _, _, _, rfl⟩ | ⟨_, _, _, _, _, rfl⟩ |
    ⟨_, rfl⟩ | ⟨hq, _⟩ | ⟨a, d, hq, _, _⟩
  · rcases runInstruction_cases running with ⟨i, hd, he⟩ | ⟨w, _, rfl⟩
    · obtain ⟨x, hx⟩ := mem_writer_of_exec he (by simpa using hne)
      exact .inl ⟨key, rand, x, hq, hm, hx.imp (fun e => by simpa [e] using hd) fun e => by simpa [e] using hd⟩
    · exact absurd (by simp) hne
  · exact absurd (by simp) hne
  · exact absurd (by simp) hne
  · exact absurd (by simp) hne
  · exact .inr (.inr hq)
  · exact .inr (.inl ⟨a, d, hq⟩)

end Sys2Proof.Machine
end

section
/-! Decoding, encoding and the opcode map (spec/30_encoding.md R45 to R52) against each other. Decoding undoes encoding
by the fields of each format; encoding undoes decoding because a word is put together from its fields; and a word that
meets the mask and match of a row is the encoding of the row's instruction with the word's fields. -/

namespace Sys2Proof

variable {w : Word} {i : Instr}

/-! Decoding an encoding (R45, R46, R49, R50). -/

theorem decodeSystem_formatN {nnn : Addr} (h : wellFormed (.sys nnn) = true) :
    decodeSystem (formatN 0x0#4 nnn) = .instr (.sys nnn) := by
  have ⟨notCls, notRet⟩ : nnn ≠ 0x0E0#12 ∧ nnn ≠ 0x0EE#12 := by simpa [wellFormed, sysNamesAnother] using h
  simp [decodeSystem, notCls, notRet]

/-- Each instruction's word carries the op of its family, the fixed digits that select it, and its fields. -/
theorem decode_encode (h : wellFormed i = true) : decode (encode i) = .instr i := by
  cases i
  case sys nnn => simpa [encode, decode] using decodeSystem_formatN h
  case cls | ret => rfl
  case jp | call | ldI | jpV0 | seByte | sneByte | ldByte | addByte | rnd | drw => simp [encode, decode]
  case seReg | sneReg => simp [encode, decode, decodeRegSkip]
  case ldReg | orReg | andReg | xorReg | addReg | subReg | shr | subn | shl => simp [encode, decode, decodeAlu]
  case skp | sknp => simp [encode, decode, decodeKeySkip]
  case ldVxDT | ldVxK | ldDTVx | ldSTVx | addI | ldF | ldB | stRegs | ldRegs => simp [encode, decode, decodeMisc]

/-- The bytes of a word in memory order, whatever follows them, decode as the word (R30, R43). -/
theorem decodeBytes_bytesOfWord (h : decode w = .instr i) (rest : List Byte) :
    decodeBytes (bytesOfWord w ++ rest) = .ok (i, rest) := by
  simp [bytesOfWord, decodeBytes, h]

/-- Settles O1, by the constructors of the instruction. -/
theorem decodingAnEncodingGivesItBack : Obligations.DecodingAnEncodingGivesItBack :=
  fun _ h => ⟨decode_encode h, decodeBytes_bytesOfWord (decode_encode h)⟩

/-! Encoding a decoding (R49 to R52), family by family. -/

theorem formatN_of_opField {op : Nibble} (hop : opField w = op) : formatN op (nnnField w) = w :=
  hop ▸ formatN_fields w

theorem formatXKK_of_opField {op : Nibble} (hop : opField w = op) : formatXKK op (xField w) (kkField w) = w :=
  hop ▸ formatXKK_fields w

theorem formatXKK_of_op_kk {op : Nibble} {kk : Byte} (hop : opField w = op) (hkk : kkField w = kk) :
    formatXKK op (xField w) kk = w :=
  hkk ▸ formatXKK_of_opField hop

theorem formatXY_of_opField {op : Nibble} (hop : opField w = op) :
    formatXY op (xField w) (yField w) (nField w) = w :=
  hop ▸ formatXY_fields w

theorem formatXY_of_op_n {op n : Nibble} (hop : opField w = op) (hn : nField w = n) :
    formatXY op (xField w) (yField w) n = w :=
  hn ▸ formatXY_of_opField hop

theorem encode_of_decodeSystem (hop : opField w = 0x0#4) (h : decodeSystem w = .instr i) : encode i = w := by
  have fields := formatN_of_opField hop
  unfold decodeSystem at h
  split at h
  · next hcls => cases h; rw [← fields, hcls]; rfl
  · split at h
    · next hret => cases h; rw [← fields, hret]; rfl
    · cases h; exact fields

theorem encode_of_decodeAlu (hop : opField w = 0x8#4) (h : decodeAlu w = .instr i) : encode i = w := by
  unfold decodeAlu at h
  split at h <;> cases h
  all_goals next hn => exact formatXY_of_op_n hop hn

theorem encode_of_decodeKeySkip (hop : opField w = 0xE#4) (h : decodeKeySkip w = .instr i) : encode i = w := by
  unfold decodeKeySkip at h
  split at h <;> cases h
  all_goals next hkk => exact formatXKK_of_op_kk hop hkk

theorem encode_of_decodeMisc (hop : opField w = 0xF#4) (h : decodeMisc w = .instr i) : encode i = w := by
  unfold decodeMisc at h
  split at h <;> cases h
  all_goals next hkk => exact formatXKK_of_op_kk hop hkk

theorem encode_of_decodeRegSkip {op : Nibble} {build : Nibble → Nibble → Instr}
    (hb : ∀ x y, encode (build x y) = formatXY op x y 0x0#4) (hop : opField w = op)
    (h : decodeRegSkip build w = .instr i) : encode i = w := by
  unfold decodeRegSkip at h
  split at h <;> cases h
  next hn => rw [hb, formatXY_of_op_n hop hn]

theorem encode_of_decode (h : decode w = .instr i) : encode i = w := by
  unfold decode at h
  split at h
  case h_1 hop => exact encode_of_decodeSystem hop h
  case h_2 hop | h_3 hop | h_11 hop | h_12 hop => cases h; exact formatN_of_opField hop
  case h_4 hop | h_5 hop | h_7 hop | h_8 hop | h_13 hop => cases h; exact formatXKK_of_opField hop
  case h_6 hop | h_10 hop => exact encode_of_decodeRegSkip (fun _ _ => rfl) hop h
  case h_9 hop => exact encode_of_decodeAlu hop h
  case h_14 hop => cases h; exact formatXY_of_opField hop
  case h_15 hop => exact encode_of_decodeKeySkip hop h
  case h_16 =>
    have hop : opField w = 0xF#4 := by
      generalize opField w = op at *
      clear h
      revert op
      decide
    exact encode_of_decodeMisc hop h

/-- Settles O2, by the families of the decoder. -/
theorem encodingADecodingGivesItBack : Obligations.EncodingADecodingGivesItBack :=
  fun _ _ h => ⟨encode_of_decode h, wellFormed_of_decode h⟩

/-! The opcode map (R49, R50). -/

open Laws.EncodingFixedBits in
/-- The word of every instruction meets its own row. -/
theorem encode_and_opcodeMask (i : Instr) : encode i &&& opcodeMask i = opcodeMatch i := by
  change Statement i
  cases i
  exacts [sys _, cls, ret, jp _, call _, seByte _ _, sneByte _ _, seReg _ _, ldByte _ _, addByte _ _, ldReg _ _,
    orReg _ _, andReg _ _, xorReg _ _, addReg _ _, subReg _ _, shr _ _, subn _ _, shl _ _, sneReg _ _, ldI _, jpV0 _,
    rnd _ _, drw _ _ _, skp _, sknp _, ldVxDT _, ldVxK _, ldDTVx _, ldSTVx _, addI _, ldF _, ldB _, stRegs _, ldRegs _]

/-- The instruction of the same row of the opcode map with its operands read from a word. -/
def Instr.withFields (w : Word) : Instr → Instr
  | .sys _ => .sys (nnnField w)
  | .cls => .cls
  | .ret => .ret
  | .jp _ => .jp (nnnField w)
  | .call _ => .call (nnnField w)
  | .seByte _ _ => .seByte (xField w) (kkField w)
  | .sneByte _ _ => .sneByte (xField w) (kkField w)
  | .seReg _ _ => .seReg (xField w) (yField w)
  | .ldByte _ _ => .ldByte (xField w) (kkField w)
  | .addByte _ _ => .addByte (xField w) (kkField w)
  | .ldReg _ _ => .ldReg (xField w) (yField w)
  | .orReg _ _ => .orReg (xField w) (yField w)
  | .andReg _ _ => .andReg (xField w) (yField w)
  | .xorReg _ _ => .xorReg (xField w) (yField w)
  | .addReg _ _ => .addReg (xField w) (yField w)
  | .subReg _ _ => .subReg (xField w) (yField w)
  | .shr _ _ => .shr (xField w) (yField w)
  | .subn _ _ => .subn (xField w) (yField w)
  | .shl _ _ => .shl (xField w) (yField w)
  | .sneReg _ _ => .sneReg (xField w) (yField w)
  | .ldI _ => .ldI (nnnField w)
  | .jpV0 _ => .jpV0 (nnnField w)
  | .rnd _ _ => .rnd (xField w) (kkField w)
  | .drw _ _ _ => .drw (xField w) (yField w) (nField w)
  | .skp _ => .skp (xField w)
  | .sknp _ => .sknp (xField w)
  | .ldVxDT _ => .ldVxDT (xField w)
  | .ldVxK _ => .ldVxK (xField w)
  | .ldDTVx _ => .ldDTVx (xField w)
  | .ldSTVx _ => .ldSTVx (xField w)
  | .addI _ => .addI (xField w)
  | .ldF _ => .ldF (xField w)
  | .ldB _ => .ldB (xField w)
  | .stRegs _ => .stRegs (xField w)
  | .ldRegs _ => .ldRegs (xField w)

@[simp] theorem opcodeMatch_withFields (w : Word) (i : Instr) : opcodeMatch (i.withFields w) = opcodeMatch i := by
  cases i <;> rfl

@[simp] theorem opcodeMask_withFields (w : Word) (i : Instr) : opcodeMask (i.withFields w) = opcodeMask i := by
  cases i <;> rfl

/-! Words that agree under a mask agree in the fields it keeps. -/

theorem opField_congr {w' : Word} (h : w &&& 0xF000#16 = w' &&& 0xF000#16) : opField w = opField w' := by
  rw [and_opMask, and_opMask] at h
  simpa using congrArg opField h

theorem op_n_congr {w' : Word} (h : w &&& 0xF00F#16 = w' &&& 0xF00F#16) :
    opField w = opField w' ∧ nField w = nField w' := by
  rw [and_op_nMask, and_op_nMask] at h
  exact ⟨by simpa using congrArg opField h, by simpa using congrArg nField h⟩

theorem op_kk_congr {w' : Word} (h : w &&& 0xF0FF#16 = w' &&& 0xF0FF#16) :
    opField w = opField w' ∧ kkField w = kkField w' := by
  rw [and_op_kkMask, and_op_kkMask] at h
  exact ⟨by simpa using congrArg opField h, by simpa using congrArg kkField h⟩

/-- A word that meets a row is the encoding of the row's instruction with the word's fields: it has the fixed digits
that every encoding of the row has. -/
theorem encode_withFields (h : w &&& opcodeMask i = opcodeMatch i) : encode (i.withFields w) = w := by
  have fixed : w &&& opcodeMask i = encode i &&& opcodeMask i := h.trans (encode_and_opcodeMask i).symm
  cases i
  case cls | ret => exact h.symm.trans BitVec.and_allOnes
  case sys | jp | call | ldI | jpV0 =>
    exact formatN_of_opField ((opField_congr fixed).trans (opField_formatN _ _))
  case seByte | sneByte | ldByte | addByte | rnd =>
    exact formatXKK_of_opField ((opField_congr fixed).trans (opField_formatXKK _ _ _))
  case drw => exact formatXY_of_opField ((opField_congr fixed).trans (opField_formatXY _ _ _ _))
  case seReg | ldReg | orReg | andReg | xorReg | addReg | subReg | shr | subn | shl | sneReg =>
    obtain ⟨hop, hn⟩ := op_n_congr fixed
    exact formatXY_of_op_n (hop.trans (opField_formatXY _ _ _ _)) (hn.trans (nField_formatXY _ _ _ _))
  case skp | sknp | ldVxDT | ldVxK | ldDTVx | ldSTVx | addI | ldF | ldB | stRegs | ldRegs =>
    obtain ⟨hop, hkk⟩ := op_kk_congr fixed
    exact formatXKK_of_op_kk (hop.trans (opField_formatXKK _ _ _)) (hkk.trans (kkField_formatXKK _ _ _))

/-- Only SYS with the word of CLS or of RET is not well-formed (R50). -/
theorem wellFormed_or_system (i : Instr) :
    wellFormed i = true ∨ opcodeMatch i = 0x0000#16 ∧ (encode i = 0x00E0#16 ∨ encode i = 0x00EE#16) := by
  cases i
  case sys nnn =>
    by_cases hcls : nnn = 0x0E0#12
    · subst hcls; exact .inr ⟨rfl, .inl rfl⟩
    by_cases hret : nnn = 0x0EE#12
    · subst hret; exact .inr ⟨rfl, .inr rfl⟩
    exact .inl (by simp [wellFormed, sysNamesAnother, hcls, hret])
  all_goals exact .inl rfl

/-- A word decodes to what it is the encoding of, but for the words of CLS and RET as encodings of SYS (R50). -/
theorem decode_of_encode (h : encode i = w) :
    decode w = .instr i ∨ opcodeMatch i = 0x0000#16 ∧ (w = 0x00E0#16 ∨ w = 0x00EE#16) := by
  subst h
  exact (wellFormed_or_system i).imp_left decode_encode

/-- A word that meets a row decodes to that row's instruction with the word's fields, or it is the word of CLS or RET
against the row of SYS. -/
theorem decode_of_meets_row (h : w &&& opcodeMask i = opcodeMatch i) :
    decode w = .instr (i.withFields w) ∨ opcodeMatch i = 0x0000#16 ∧ (w = 0x00E0#16 ∨ w = 0x00EE#16) := by
  simpa using decode_of_encode (encode_withFields h)

/-- Settles O3: a decoded word is the encoding of its instruction, which meets its row, and conversely. -/
theorem decodingFollowsTheOpcodeMap : Obligations.DecodingFollowsTheOpcodeMap := by
  refine ⟨fun w i h => encode_of_decode h ▸ encode_and_opcodeMask i, fun w i h notSystem => ?_⟩
  rcases decode_of_meets_row h with hd | ⟨hrow, hw⟩
  · exact ⟨_, hd, opcodeMatch_withFields w i, opcodeMask_withFields w i⟩
  · obtain ⟨notCls, notRet⟩ := notSystem hrow
    exact absurd hw (not_or.2 ⟨notCls, notRet⟩)

/-- Settles O4: two rows that one word meets both decode it, to one instruction. -/
theorem onlyTheSystemRowsOverlap : Obligations.OnlyTheSystemRowsOverlap := by
  refine ⟨rfl, rfl, fun w hop notCls notRet => ?_, fun w i j hi hj => ?_⟩
  · have encoded : encode (.sys (nnnField w)) = w := formatN_of_opField hop
    exact (decode_of_encode encoded).resolve_right fun ⟨_, hw⟩ => hw.elim notCls notRet
  · rcases decode_of_meets_row hi with di | ⟨ri, hw⟩
    · rcases decode_of_meets_row hj with dj | ⟨rj, hw⟩
      · have same : i.withFields w = j.withFields w := by simpa using di.symm.trans dj
        exact .inl (by rw [← opcodeMatch_withFields w i, same, opcodeMatch_withFields])
      · exact .inr ⟨hw, .inr rj⟩
    · exact .inr ⟨hw, .inl ri⟩

/-- Settles O6, by running the decoder on each word. -/
theorem spelledWordsDecode : Obligations.SpelledWordsDecode := by
  unfold Obligations.SpelledWordsDecode
  decide

end Sys2Proof
end

section
/-! Execute steps (spec/30_encoding.md R51, R52, R54, R56, spec/60_exceptions.md R110, R111): the decoded instruction
run past the fetch's advance, the unknown words, the skips, and where the sampled inputs matter. -/

namespace Sys2Proof.Machine

variable {s t : State} {i : Instr} {w : Word} {key : Option Byte} {rand : Byte}

/-- An execute step of a word that decodes executes its instruction with PC past it (R54). -/
theorem step_of_instr (hq : s.nextRequest = .execute key rand) (hm : s.mode = .running)
    (hd : decode s.fetchWord = .instr i) : step s = exec i (s.sampled key rand).advancePC := by
  rw [step_running hq hm]
  exact runInstruction_instr (by simpa using hd)

/-- An execute step of an unknown word advances PC and raises UnknownInstruction (R51, R54). -/
theorem step_of_unknown (hq : s.nextRequest = .execute key rand) (hm : s.mode = .running)
    (hd : decode s.fetchWord = .unknown w) :
    step s = .next ((s.sampled key rand).advancePC.raiseFatal .unknownInstruction s.pc w) := by
  rw [step_running hq hm, runInstruction_unknown (w := w) (by simpa using hd)]
  simp [State.sampled]

/-- Settles O7, by what the fetched word decodes to. -/
theorem stepRunsTheDecodedInstruction : Obligations.StepRunsTheDecodedInstruction := by
  refine fun s key rand hq hm => ⟨fun i hd => ?_, fun w hd => ⟨_, step_of_unknown hq hm hd, ?_, rfl, ?_⟩⟩
  · rw [step_of_instr hq hm hd, State.advancePC]
    simp [State.sampled]
  · simp [State.sampled]
  · exact (State.advancePC_frame _).trans (State.raiseFatal_frame _ _ _ _)

/-! The unknown words (R51, R52). -/

/-- R51 speaks of the fields of R45. -/
theorem unknownWord_iff : UnknownWord w ↔
    (opField w = 0x5#4 ∧ nField w ≠ 0x0#4) ∨
    (opField w = 0x8#4 ∧ nField w ∈ [0x8#4, 0x9#4, 0xA#4, 0xB#4, 0xC#4, 0xD#4, 0xF#4]) ∨
    (opField w = 0x9#4 ∧ nField w ≠ 0x0#4) ∨
    (opField w = 0xE#4 ∧ kkField w ∉ [0x9E#8, 0xA1#8]) ∨
    (opField w = 0xF#4 ∧
      kkField w ∉ [0x07#8, 0x0A#8, 0x15#8, 0x18#8, 0x1E#8, 0x29#8, 0x33#8, 0x55#8, 0x65#8]) := Iff.rfl

/-- No instruction's word is unknown: its op is of another family, or its fixed digits are listed there. -/
theorem not_unknownWord_encode (i : Instr) : ¬UnknownWord (encode i) := by
  rw [unknownWord_iff]
  cases i
  case cls | ret => decide
  all_goals simp [encode]

theorem decode_eq_unknown_iff : decode w = .unknown w ↔ UnknownWord w := by
  refine ⟨fun h => (unknownWord_of_decode h).2, fun hu => ?_⟩
  cases hd : decode w with
  | instr i => exact absurd hu (encode_of_decode hd ▸ not_unknownWord_encode i)
  | unknown w' => rw [(unknownWord_of_decode hd).1]

theorem decode_total (w : Word) : decode w = .unknown w ∨ ∃ i, decode w = .instr i := by
  cases hd : decode w with
  | instr i => exact .inr ⟨i, rfl⟩
  | unknown w' => exact .inl (by rw [(unknownWord_of_decode hd).1])

/-- Settles O5: no encoding is an unknown word, and every word that decodes is an encoding. -/
theorem unknownWordsAreExactlyTheListed : Obligations.UnknownWordsAreExactlyTheListed :=
  ⟨fun _ => decode_eq_unknown_iff, decode_total, fun _ _ _ hq hm hu =>
    ⟨_, step_of_unknown hq hm (decode_eq_unknown_iff.2 hu), rfl⟩⟩

/-- Settles O29: past the fetch's advance a skip advances PC again, on its condition. -/
theorem aTakenSkipLandsFourPast : Obligations.ATakenSkipLandsFourPast := by
  intro s key rand i p hq hm hd hp
  obtain ⟨c, hc, he⟩ := exec_skip (s := (s.sampled key rand).advancePC) (by rwa [skipCondition_advancePC])
  have fetched : (s.sampled key rand).pc = s.pc := by simp [State.sampled]
  refine ⟨_, (step_of_instr hq hm hd).trans he, fun taken => ?_, fun notTaken => ?_,
    (State.advancePC_frame _).comp (State.skipIf_frame _ c)⟩
  · rw [hc.2 taken, State.skipIf, if_pos rfl, State.advancePC_pc, State.advancePC_pc, fetched, BitVec.add_assoc]
    rfl
  · rw [Bool.eq_false_iff.2 (mt hc.1 notTaken), ← fetched]
    rfl

/-! Where KEY and RAND matter (R110, R111). -/

/-- The state with other sampled inputs. -/
def State.withInputs (s : State) (k : Option Byte) (r : Byte) : State := { s with key := k, rand := r }

variable {k : Option Byte} {r : Byte}

theorem State.skipIf_withInputs (c : Bool) : (s.withInputs k r).skipIf c = (s.skipIf c).withInputs k r := by
  cases c <;> rfl

theorem State.storeRegs_withInputs (base count : Nat) :
    (s.withInputs k r).storeRegs base count = (s.storeRegs base count).withInputs k r :=
  List.foldl_hom (fun u : State => u.withInputs k r) fun _ _ => rfl

theorem State.loadRegs_withInputs (base count : Nat) :
    (s.withInputs k r).loadRegs base count = (s.loadRegs base count).withInputs k r :=
  List.foldl_hom (fun u : State => u.withInputs k r) fun _ _ => rfl

/-- With another KEY, unless the instruction is a key skip, and another RAND, unless it is RND, an instruction does
the same and leaves the inputs. -/
theorem exec_withInputs (hk : k = s.key ∨ ∀ x, i ≠ .skp x ∧ i ≠ .sknp x) (hr : r = s.rand ∨ ∀ x kk, i ≠ .rnd x kk)
    (h : exec i s = .next t) : exec i (s.withInputs k r) = .next (t.withInputs k r) := by
  cases i
  case sys =>
    rcases exec_sys_cases h with ⟨hm, rfl⟩ | ⟨hm, rfl⟩
    · simp only [exec, execSys, State.withInputs, hm]
      rfl
    · simp only [exec, execSys, State.withInputs, hm]
  case ret =>
    rcases exec_ret_cases h with ⟨hs, rfl⟩ | ⟨below, w, hs, rfl⟩
    · simp only [exec, execRet, State.pop_of_empty (s := s.withInputs k r) hs]
      rfl
    · simp only [exec, execRet, State.pop_of_append (s := s.withInputs k r) hs]
      rfl
  case call =>
    rcases exec_call_cases h with ⟨hd, rfl⟩ | ⟨hd, rfl⟩
    · simp only [exec, execCall, State.push_of_full (s := s.withInputs k r) hd]
      rfl
    · simp only [exec, execCall, State.push_of_not_full (s := s.withInputs k r) hd]
      rfl
  case skp x =>
    obtain rfl := hk.resolve_right fun other => (other x).1 rfl
    cases h
    exact congrArg _ (State.skipIf_withInputs _)
  case sknp x =>
    obtain rfl := hk.resolve_right fun other => (other x).2 rfl
    cases h
    exact congrArg _ (State.skipIf_withInputs _)
  case seByte | sneByte | seReg | sneReg => cases h; exact congrArg _ (State.skipIf_withInputs _)
  case rnd x kk =>
    obtain rfl := hr.resolve_right fun other => other x kk rfl
    cases h
    rfl
  case stRegs => cases h; simp only [exec, execStRegs, State.storeRegs_withInputs]; rfl
  case ldRegs => cases h; simp only [exec, execLdRegs, State.loadRegs_withInputs]; rfl
  all_goals cases h; rfl

/-- Settles O42: each input is changed while the other stays, which no instruction writes. -/
theorem inputsAreReadOnlyWhereListed : Obligations.InputsAreReadOnlyWhereListed := by
  refine ⟨fun i s t k noKey h => ?_, fun i s t r noRand h => ?_⟩
  · have sameRand : t.withInputs k s.rand = { t with key := k } := by rw [← (exec_frame h).rand]; rfl
    exact sameRand ▸ exec_withInputs (.inr noKey) (.inl rfl) h
  · have sameKey : t.withInputs s.key r = { t with rand := r } := by rw [← (exec_frame h).key]; rfl
    exact sameKey ▸ exec_withInputs (.inl rfl) (.inr noRand) h

end Sys2Proof.Machine
end

section
/-! Control transfer (spec/40_control.md R59 to R63): the targets as numbers, the record of a fatal condition, what
CALL, RET and SYS do in each of their cases, and a call followed by its return. -/

namespace Sys2Proof.Machine

variable {s : State} {nnn : Addr} {below : List Word} {w : Word} {key : Option Byte} {rand : Byte}
  {rest : List HostRequest}

/-- A 12-bit address keeps its value in 16 bits (R59). -/
@[simp] theorem zextAddr_toNat (nnn : Addr) : (zextAddr nnn).toNat = nnn.toNat :=
  BitVec.toNat_setWidth_of_le (by decide)

@[simp] theorem zextByte_toNat (b : Byte) : (zextByte b).toNat = b.toNat :=
  BitVec.toNat_setWidth_of_le (by decide)

/-- The largest sum is 0xFFF + 0xFF, so 16 bits hold it (R60). -/
theorem State.offsetTarget_toNat (s : State) (nnn : Addr) :
    (s.offsetTarget nnn).toNat = nnn.toNat + (s.getV 0#4).toNat := by
  have addr := nnn.isLt
  have offset := (s.getV 0#4).isLt
  rw [State.offsetTarget, BitVec.toNat_add, zextAddr_toNat, zextByte_toNat]
  omega

/-- Where PC is two past `a`, the record of a fatal condition names `a` (R99, R100). -/
theorem State.raiseFatal_record {a : Word} (c : FatalCause) (w : Word) (h : s.pc = a + 2#16) :
    (s.raiseFatal c s.instrAddr w).mode = .halted { cause := c, pc := a, word := w } := by
  have named : s.instrAddr = a := by rw [State.instrAddr, h, BitVec.add_sub_cancel]
  rw [State.raiseFatal_mode, named]

theorem exec_call_of_not_full (h : s.cfg.stackDepth ≠ some s.sp) :
    exec (.call nnn) s = .next ((s.setStack (s.stack ++ [s.pc])).setPC (zextAddr nnn)) := by
  simp only [exec, execCall, State.push_of_not_full h]

theorem exec_call_of_full (h : s.cfg.stackDepth = some s.sp) :
    exec (.call nnn) s = .next (s.raiseFatal .stackOverflow s.instrAddr (encode (.call nnn))) := by
  simp only [exec, execCall, State.push_of_full h]

theorem exec_ret_of_append (h : s.stack = below ++ [w]) : exec .ret s = .next ((s.setStack below).setPC w) := by
  simp only [exec, execRet, State.pop_of_append h]

theorem exec_ret_of_empty (h : s.stack = []) :
    exec .ret s = .next (s.raiseFatal .stackUnderflow s.instrAddr (encode .ret)) := by
  simp only [exec, execRet, State.pop_of_empty h]

theorem exec_sys_of_fault (h : s.cfg.sysMode = .fault) :
    exec (.sys nnn) s = .next (s.raiseFatal .sysUnsupported s.instrAddr (encode (.sys nnn))) := by
  simp only [exec, execSys, h]

theorem exec_sys_of_nop (h : s.cfg.sysMode = .nop) : exec (.sys nnn) s = .next s := by
  simp only [exec, execSys, h]

/-- CALL and RET change the stack and then PC. -/
theorem State.setStack_setPC_frame (s : State) (l : List Word) (w : Word) :
    SameOutside [.pc, .stack] s ((s.setStack l).setPC w) :=
  ((s.setStack_frame l).trans (State.setPC_frame _ w)).mono (by simp)

/-- The state after an execute step of a CALL, the stack not full: the address past it pushed, PC at the target, the
request taken and its inputs sampled. -/
def State.afterCall (s : State) (nnn : Addr) (key : Option Byte) (rand : Byte) (rest : List HostRequest) : State :=
  (({ s with script := rest }.sample key rand).setStack (s.stack ++ [s.pc + 2#16])).setPC (zextAddr nnn)

/-- An execute step of a CALL, the stack not full, pushes the address past it and jumps (R54, R61). -/
theorem step_call (hs : s.script = .execute key rand :: rest) (hm : s.mode = .running)
    (hw : s.fetchWord = encode (.call nnn)) (notFull : s.cfg.stackDepth ≠ some s.sp) :
    step s = .next (s.afterCall nnn key rand rest) := by
  rw [step_of_instr (State.nextRequest_of_script hs) hm (hw ▸ decode_encode rfl), State.sampled,
    State.takeRequest_of_script hs]
  exact exec_call_of_not_full notFull

/-- An execute step of a RET takes the top entry into PC (R54, R62). -/
theorem step_ret (hs : s.script = .execute key rand :: rest) (hm : s.mode = .running)
    (hw : s.fetchWord = encode .ret) (hstack : s.stack = below ++ [w]) :
    step s = .next ((({ s with script := rest }.sample key rand).setStack below).setPC w) := by
  rw [step_of_instr (State.nextRequest_of_script hs) hm (hw ▸ decode_encode rfl), State.sampled,
    State.takeRequest_of_script hs]
  exact exec_ret_of_append hstack

/-- After a CALL the next fetch reads the two bytes at its target (R43, R61). -/
theorem State.fetchWord_afterCall {high low : Byte} (hhigh : s.memRead nnn.toNat = high)
    (hlow : s.memRead (nnn.toNat + 1) = low) : (s.afterCall nnn key rand rest).fetchWord = wordOfBytes high low := by
  rw [State.fetchWord, State.afterCall, State.setPC_pc, zextAddr_toNat, ← hhigh, ← hlow]
  rfl

/-- Settles O26: the call leaves the address past it on top of the stack and PC at a word that is RET, which takes that
address back; the stack is again what it was, so PC alone has changed. -/
theorem callThenReturnComesBack : Obligations.CallThenReturnComesBack := by
  intro s nnn k1 k2 r1 r2 rest hs hm hw notFull high low
  have call : step s = .next (s.afterCall nnn k1 r1 (.execute k2 r2 :: rest)) := step_call hs hm hw notFull
  have ret : step (s.afterCall nnn k1 r1 (.execute k2 r2 :: rest)) =
      .next (({ s with script := rest }.sample k2 r2).setPC (s.pc + 2#16)) :=
    step_ret rfl hm (State.fetchWord_afterCall high low) rfl
  exact ⟨_, (run_succ 1 call).trans (run_succ 0 ret), rfl, State.setPC_frame _ _⟩

/-- Settles O21. -/
theorem jumpSetsPC : Obligations.JumpSetsPC :=
  ⟨fun nnn => decode_encode (i := .jp nnn) rfl, fun nnn s => ⟨_, rfl, zextAddr_toNat nnn, s.setPC_frame _⟩⟩

/-- Settles O22: the target is the sum, which does not wrap. -/
theorem jumpWithOffsetAddsV0 : Obligations.JumpWithOffsetAddsV0 :=
  ⟨fun nnn => decode_encode (i := .jpV0 nnn) rfl, fun nnn s => ⟨_, rfl, s.offsetTarget_toNat nnn,
    s.setPC_frame _⟩⟩

/-- Settles O23, by whether the stack is full. -/
theorem callPushesAndJumps : Obligations.CallPushesAndJumps := by
  refine ⟨fun nnn => decode_encode (i := .call nnn) rfl, fun nnn s notFull => ?_, fun nnn s full => ?_⟩
  · exact ⟨_, exec_call_of_not_full notFull, zextAddr_toNat nnn, rfl, List.length_append,
      s.setStack_setPC_frame _ _⟩
  · exact ⟨_, exec_call_of_full full, fun _ => State.raiseFatal_record _ _, s.raiseFatal_frame _ _ _⟩

/-- Settles O24, by whether the stack is empty. -/
theorem returnPopsIntoPC : Obligations.ReturnPopsIntoPC := by
  refine ⟨decode_encode (i := .ret) rfl, fun s below w top => ?_, fun s empty => ?_⟩
  · have depth : below.length + 1 = s.sp := by simp [State.sp, top]
    exact ⟨_, exec_ret_of_append top, rfl, rfl, depth, s.setStack_setPC_frame _ _⟩
  · exact ⟨_, exec_ret_of_empty empty, fun _ => State.raiseFatal_record _ _, s.raiseFatal_frame _ _ _⟩

/-- Settles O25, by `SYS_MODE`; the words of CLS and RET are those a well-formed SYS does not have. -/
theorem sysFaultsOrDoesNothing : Obligations.SysFaultsOrDoesNothing := by
  refine ⟨fun nnn notCls notRet => ?_, fun nnn s => ?_⟩
  · have notOther : wellFormed (.sys nnn) = true := by simp [wellFormed, sysNamesAnother, notCls, notRet]
    exact decode_encode (i := .sys nnn) notOther
  · cases hm : s.cfg.sysMode with
    | fault =>
      exact ⟨_, exec_sys_of_fault hm,
        fun _ => ⟨fun _ => State.raiseFatal_record _ _, s.raiseFatal_frame _ _ _⟩, nofun⟩
    | nop => exact ⟨_, exec_sys_of_nop hm, nofun, fun _ => SameOutside.rfl' _ s⟩

end Sys2Proof.Machine
end

section
/-! Skips (spec/30_encoding.md R56, spec/41_skip.md R64 to R67): where a skip leaves PC, in terms of its condition. -/

namespace Sys2Proof.Machine

variable {s : State} {i : Instr} {p : Prop} [Decidable p]

/-- A skip moves PC by 2 when its condition holds, and changes nothing else (R56). -/
theorem exec_skip_pc (h : skipCondition s i = some p) :
    ∃ t, exec i s = .next t ∧ t.pc = (if p then s.pc + 2#16 else s.pc) ∧ SameOutside [.pc] s t := by
  obtain ⟨c, hc, he⟩ := exec_skip h
  have moved : (s.skipIf c).pc = if p then s.pc + 2#16 else s.pc := by simp only [State.skipIf_pc, hc]
  exact ⟨_, he, moved, s.skipIf_frame c⟩

/-- A skip on inequality moves PC by 2 when its operands differ (R65, R67). -/
theorem exec_skip_not_pc (h : skipCondition s i = some (¬p)) :
    ∃ t, exec i s = .next t ∧ t.pc = (if p then s.pc else s.pc + 2#16) ∧ SameOutside [.pc] s t := by
  simpa only [ite_not] using exec_skip_pc h

/-- Settles O27: SE skips on the equality of its operands, SNE on the negation of that equality. -/
theorem registerSkipsFollowTheirCondition : Obligations.RegisterSkipsFollowTheirCondition :=
  ⟨fun x kk => decode_encode (i := .seByte x kk) rfl, fun x kk => decode_encode (i := .sneByte x kk) rfl,
    fun x y => decode_encode (i := .seReg x y) rfl, fun x y => decode_encode (i := .sneReg x y) rfl,
    fun _ _ _ _ => ⟨exec_skip_pc rfl, exec_skip_not_pc rfl, exec_skip_pc rfl, exec_skip_not_pc rfl⟩⟩

end Sys2Proof.Machine
end

section
/-! Immediate load and add (spec/42_immediate.md R68, R69), in terms of what a write of Vx alone does. -/

namespace Sys2Proof.Machine

variable {s : State} {i : Instr} {x : Nibble} {b : Byte}

/-- An instruction that answers with one register write changes that register and nothing else. -/
theorem exec_setV_frame (h : exec i s = .next (s.setV x b)) :
    ∃ t, exec i s = .next t ∧ t.getV x = b ∧ SameOutside [.v x] s t :=
  ⟨_, h, s.getV_setV_same x b, s.setV_frame x b⟩

theorem exec_ldByte (x : Nibble) (kk : Byte) (s : State) : exec (.ldByte x kk) s = .next (s.setV x kk) := rfl

theorem exec_addByte (x : Nibble) (kk : Byte) (s : State) :
    exec (.addByte x kk) s = .next (s.setV x (s.getV x + kk)) := rfl

/-- Settles O30: the instruction is the write of `kk` to Vx. -/
theorem loadByteWritesVx : Obligations.LoadByteWritesVx :=
  ⟨fun x kk => decode_encode (i := .ldByte x kk) rfl, fun x kk s => exec_setV_frame (exec_ldByte x kk s)⟩

/-- Settles O31: the instruction writes the byte sum to Vx, and addition of bytes is addition mod 256. -/
theorem addByteWrapsWithoutAFlag : Obligations.AddByteWrapsWithoutAFlag := by
  refine ⟨fun x kk => decode_encode (i := .addByte x kk) rfl, fun x kk s => ?_⟩
  obtain ⟨t, answer, sum, frame⟩ := exec_setV_frame (exec_addByte x kk s)
  have wraps : (t.getV x).toNat = ((s.getV x).toNat + kk.toNat) % 256 := by rw [sum, BitVec.toNat_add]
  exact ⟨t, answer, wraps, frame⟩

end Sys2Proof.Machine
end

section
/-! The register ALU (spec/43_alu.md R70 to R81): what an instruction that writes a result and then a flag answers, and
the results and flags as numbers. -/

namespace Sys2Proof.Machine

variable {s t : State} {i : Instr} {x : Nibble} {result : Byte} {c : Bool}

/-- The flag is written last, so it stands in VF even with x = F. -/
theorem State.getV_writeResultThenFlag_vf : (s.writeResultThenFlag x result c).getV 0xF#4 = flagByte c :=
  State.getV_setV_same (s.setV x result) regF (flagByte c)

theorem State.getV_writeResultThenFlag_result (hx : x ≠ 0xF#4) :
    (s.writeResultThenFlag x result c).getV x = result := by
  rw [State.getV_writeResultThenFlag, regF, if_neg hx, if_pos rfl]

/-- An instruction that answers with a result and then a flag leaves the flag in VF, the result in another Vx, and
nothing else changed (R71). -/
theorem exec_writeResultThenFlag_frame (h : exec i s = .next (s.writeResultThenFlag x result c)) :
    ∃ t, exec i s = .next t ∧ (x ≠ 0xF#4 → t.getV x = result) ∧ t.getV 0xF#4 = flagByte c ∧
      SameOutside [.v x, .v 0xF#4] s t :=
  ⟨_, h, State.getV_writeResultThenFlag_result, State.getV_writeResultThenFlag_vf,
    s.writeResultThenFlag_frame x result c⟩

/-! The flags as their conditions say them (R76 to R80). -/

theorem flagByte_decide (p : Prop) [Decidable p] : flagByte (decide p) = if p then 0x01#8 else 0x00#8 := by
  simp [flagByte]

theorem flagByte_getLsbD_toNat (b : Byte) (k : Nat) : (flagByte (b.getLsbD k)).toNat = b.toNat / 2 ^ k % 2 := by
  rw [BitVec.getLsbD, ← Nat.toNat_testBit]
  cases b.toNat.testBit k <;> rfl

theorem flagByte_shiftedOutRight_toNat (b : Byte) : (flagByte (shiftedOutRight b)).toNat = b.toNat % 2 := by
  rw [shiftedOutRight, flagByte_getLsbD_toNat, pow_zero, Nat.div_one]

theorem flagByte_shiftedOutLeft_toNat (b : Byte) : (flagByte (shiftedOutLeft b)).toNat = b.toNat / 128 := by
  have hb := b.isLt
  rw [shiftedOutLeft, flagByte_getLsbD_toNat]
  omega

/-- The flag writers leave a flag byte in VF: the five of the ALU after their result, DRW after drawing (R71, R87). -/
theorem flag_of_exec (hi : writesFlag i = true) (h : exec i s = .next t) : ∃ c, t.getV 0xF#4 = flagByte c := by
  cases i
  case addReg | subReg | shr | subn | shl => cases h; exact ⟨_, State.getV_writeResultThenFlag_vf⟩
  case drw => cases h; exact ⟨_, State.getV_setV_same ..⟩
  all_goals cases hi

/-- Settles O36: a flag byte is 0 or 1 as its condition fails or holds. -/
theorem flagsAreZeroOrOne : Obligations.FlagsAreZeroOrOne := by
  intro i s t hi h
  obtain ⟨c, flag⟩ := flag_of_exec hi h
  rw [flag, flagByte_eq_zero, flagByte_eq_one]
  exact (Bool.eq_false_or_eq_true c).symm

/-- Settles O32: each instruction is one write of Vx. -/
theorem assignAndLogicWriteVxAlone : Obligations.AssignAndLogicWriteVxAlone :=
  ⟨fun x y => decode_encode (i := .ldReg x y) rfl, fun x y => decode_encode (i := .orReg x y) rfl,
    fun x y => decode_encode (i := .andReg x y) rfl, fun x y => decode_encode (i := .xorReg x y) rfl,
    fun _ _ _ => ⟨exec_setV_frame rfl, exec_setV_frame rfl, exec_setV_frame rfl, exec_setV_frame rfl⟩⟩

/-- Settles O33: the byte sum wraps mod 256 and the flag is its carry. -/
theorem addRegistersSetsCarry : Obligations.AddRegistersSetsCarry := by
  refine ⟨fun x y => decode_encode (i := .addReg x y) rfl, fun x y s => ?_⟩
  obtain ⟨t, answer, sum, carry, frame⟩ := exec_writeResultThenFlag_frame (i := .addReg x y) (s := s) rfl
  refine ⟨t, answer, fun hx => ?_, ?_, frame⟩
  · rw [sum hx, BitVec.toNat_add]
  · rw [carry, carryOut, flagByte_decide]

/-- A difference with its flag: mod 256, and 1 exactly when nothing is borrowed (R77, R79). -/
theorem exec_difference {a b : Byte} (h : exec i s = .next (s.writeResultThenFlag x (a - b) (noBorrow a b))) :
    ∃ t, exec i s = .next t ∧ (x ≠ 0xF#4 → (t.getV x).toNat = (a.toNat + 256 - b.toNat) % 256) ∧
      t.getV 0xF#4 = (if b.toNat ≤ a.toNat then 0x01#8 else 0x00#8) ∧ SameOutside [.v x, .v 0xF#4] s t := by
  obtain ⟨t, answer, difference, borrow, frame⟩ := exec_writeResultThenFlag_frame h
  refine ⟨t, answer, fun hx => ?_, ?_, frame⟩
  · rw [difference hx]
    bv_omega
  · rw [borrow, noBorrow, flagByte_decide]

/-- Settles O34: SUB and SUBN are one subtraction with the operands swapped. -/
theorem subtractionsSetNotBorrow : Obligations.SubtractionsSetNotBorrow :=
  ⟨fun x y => decode_encode (i := .subReg x y) rfl, fun x y => decode_encode (i := .subn x y) rfl,
    fun _ _ _ => exec_difference rfl, fun _ _ _ => exec_difference rfl⟩

/-- Settles O35: a shift by one halves or doubles, and the flag is the bit that leaves the byte. -/
theorem shiftsMoveOneBitIntoVF : Obligations.ShiftsMoveOneBitIntoVF := by
  refine ⟨fun x y => decode_encode (i := .shr x y) rfl, fun x y => decode_encode (i := .shl x y) rfl,
    fun x y s v hv => ?_⟩
  obtain rfl : v = s.shiftOperand x y := hv
  obtain ⟨t, shr, halved, low, shrFrame⟩ := exec_writeResultThenFlag_frame (i := .shr x y) (s := s) rfl
  obtain ⟨u, shl, doubled, high, shlFrame⟩ := exec_writeResultThenFlag_frame (i := .shl x y) (s := s) rfl
  refine ⟨⟨t, shr, fun hx => ?_, ?_, shrFrame⟩, u, shl, fun hx => ?_, ?_, shlFrame⟩
  · rw [halved hx, BitVec.toNat_ushiftRight, Nat.shiftRight_one]
  · rw [low, flagByte_shiftedOutRight_toNat]
  · rw [doubled hx, BitVec.toNat_shiftLeft, Nat.shiftLeft_eq, pow_one]
  · rw [high, flagByte_shiftedOutLeft_toNat]

end Sys2Proof.Machine
end

section
/-! The index register (spec/44_index.md R82 to R84): the three values written to I as numbers, and the frame of a write
of I alone. -/

namespace Sys2Proof.Machine

/-- The sum wraps at the 16 bits of I (R83). -/
theorem add_zextByte_toNat (w : Word) (b : Byte) : (w + zextByte b).toNat = (w.toNat + b.toNat) % 65536 := by
  rw [BitVec.toNat_add, zextByte_toNat]

/-- The mask keeps the low nibble (R84). -/
theorem lowNibble_toNat (b : Byte) : (b &&& 0x0F#8).toNat = b.toNat % 16 :=
  Nat.and_two_pow_sub_one_eq_mod b.toNat 4

/-- The largest glyph address is 0xFFF + 75, so 16 bits hold it (R84). -/
theorem State.glyphAddr_toNat (s : State) (b : Byte) :
    (s.glyphAddr b).toNat = s.cfg.fontBase.toNat + 5 * (b.toNat % 16) := by
  have base := s.cfg.fontBase.isLt
  rw [State.glyphAddr, BitVec.toNat_add, BitVec.toNat_mul, zextAddr_toNat, zextByte_toNat, lowNibble_toNat,
    BitVec.toNat_ofNat]
  omega

/-- Settles O39: each instruction is one write of I. -/
theorem indexInstructionsWriteI : Obligations.IndexInstructionsWriteI :=
  ⟨fun nnn => decode_encode (i := .ldI nnn) rfl, fun x => decode_encode (i := .addI x) rfl,
    fun x => decode_encode (i := .ldF x) rfl,
    fun nnn s => ⟨_, rfl, zextAddr_toNat nnn, s.setI_frame _⟩,
    fun x s => ⟨_, rfl, add_zextByte_toNat s.i (s.getV x), s.setI_frame _⟩,
    fun x s => ⟨_, rfl, s.glyphAddr_toNat (s.getV x), s.setI_frame _⟩⟩

end Sys2Proof.Machine
end

section
/-! The random byte (spec/45_random.md R85): the answer is one write of Vx, of the sampled byte masked by kk. -/

namespace Sys2Proof.Machine

theorem exec_rnd (x : Nibble) (kk : Byte) (s : State) : exec (.rnd x kk) s = .next (s.setV x (s.rand &&& kk)) := rfl

/-- Settles O41: the instruction is the write of the masked byte to Vx. -/
theorem randomByteIsMasked : Obligations.RandomByteIsMasked :=
  ⟨fun x kk => decode_encode (i := .rnd x kk) rfl, fun x kk s => exec_setV_frame (exec_rnd x kk s)⟩

end Sys2Proof.Machine
end

section
/-! The display (spec/46_display.md R86 to R88): DRW plots the pixels `SpriteCovers` names, and a plot undoes itself. -/

namespace Sys2Proof.Machine

variable {s t : State} {x y n : Nibble} {c : Column} {r : Row}

theorem column_eq_origin_add_iff (b : Byte) (c : Column) (j : Nat) :
    c = originColumn b + BitVec.ofNat 6 j ↔ c.toNat = (b.toNat % 64 + j) % 64 := by
  rw [← BitVec.toNat_inj, BitVec.toNat_add, originColumn, BitVec.toNat_setWidth, BitVec.toNat_ofNat]
  omega

theorem row_eq_origin_add_iff (b : Byte) (r : Row) (k : Nat) :
    r = originRow b + BitVec.ofNat 5 k ↔ r.toNat = (b.toNat % 32 + k) % 32 := by
  rw [← BitVec.toNat_inj, BitVec.toNat_add, originRow, BitVec.toNat_setWidth, BitVec.toNat_ofNat]
  omega

/-- The covered pixels, named by offsets as numbers, are those the loops of R87 visit. -/
theorem spriteCovers_iff_rowsCover : SpriteCovers s x y n c r ↔
    RowsCover s (originColumn (s.getV x)) (originRow (s.getV y)) n.toNat c r := by
  simp only [SpriteCovers, RowsCover, RowCovers, column_eq_origin_add_iff, row_eq_origin_add_iff, ← exists_and_left]

/-- DRW plots the covered pixels, and the last write leaves the collision in VF (R87). -/
theorem exec_drw_plotted (h : exec (.drw x y n) s = .next t) : ∃ hit, t.getV 0xF#4 = flagByte hit ∧
    Plotted (SpriteCovers s x y n) { fb := s.fb, hit := false } { fb := t.fb, hit := hit } := by
  cases h
  have rows := (s.setV regF 0#8).plotSprite_spec (originColumn (s.getV x)) (originRow (s.getV y))
    (n := n.toNat) (by omega)
  exact ⟨_, State.getV_setV_same .., rows.congr fun _ _ => spriteCovers_iff_rowsCover⟩

theorem exec_drw_frame (h : exec (.drw x y n) s = .next t) : SameOutside [.v 0xF#4, .screen] s t := exec_frame h

theorem exec_drw_vf_eq_one (h : exec (.drw x y n) s = .next t) :
    t.getV 0xF#4 = 0x01#8 ↔ ∃ c r, SpriteCovers s x y n c r ∧ s.fb.pixel c r = true := by
  obtain ⟨hit, flag, plotted⟩ := exec_drw_plotted h
  rw [flag, flagByte_eq_one, plotted.hit]
  simp

theorem exec_drw_vf_eq_zero (h : exec (.drw x y n) s = .next t) :
    t.getV 0xF#4 = 0x00#8 ↔ ∀ c r, SpriteCovers s x y n c r → s.fb.pixel c r = false := by
  obtain ⟨hit, flag, plotted⟩ := exec_drw_plotted h
  rw [flag, flagByte_eq_zero, Bool.eq_false_iff, ne_eq, plotted.hit]
  simp

/-- Settles O44: the loops plot the covered pixels, each once. -/
theorem drawXorsTheCoveredPixels : Obligations.DrawXorsTheCoveredPixels := by
  refine ⟨fun x y n => decode_encode (i := .drw x y n) rfl, fun x y n s => ?_⟩
  obtain ⟨t, h⟩ := exec_answers (.drw x y n) s
  obtain ⟨_, _, plotted⟩ := exec_drw_plotted h
  exact ⟨t, h, plotted.on, plotted.off, exec_drw_vf_eq_one h, exec_drw_vf_eq_zero h, exec_drw_frame h⟩

/-- The covered pixels depend on the two origin registers, I and memory alone. -/
theorem spriteCovers_congr (hx : t.getV x = s.getV x) (hy : t.getV y = s.getV y) (hi : t.i = s.i)
    (hm : ∀ a, t.memRead a = s.memRead a) : SpriteCovers t x y n c r ↔ SpriteCovers s x y n c r := by
  simp only [SpriteCovers, hx, hy, hi, hm]

/-- Plotting the same pixels twice flips each of them back. -/
theorem Plotted.fb_eq_of_twice {covered : Column → Row → Prop} {a b b' d : Canvas} (first : Plotted covered a b)
    (again : Plotted covered b' d) (same : b'.fb = b.fb) : d.fb = a.fb := by
  refine FrameBuffer.ext_pixel fun c r => ?_
  by_cases h : covered c r
  · rw [again.on c r h, same, first.on c r h, Bool.not_not]
  · rw [again.off c r h, same, first.off c r h]

/-- Settles O45: a draw that keeps its origin keeps the covered pixels, so the second draw flips the same ones back, and
finds at each the opposite of what the first one found. -/
theorem drawingTwiceRestoresTheScreen : Obligations.DrawingTwiceRestoresTheScreen := by
  intro x y n s t h hx hy
  obtain ⟨u, h'⟩ := exec_answers (.drw x y n) t
  have frame := exec_drw_frame h
  have covers : ∀ c r, SpriteCovers s x y n c r ↔ SpriteCovers t x y n c r := fun c r =>
    (spriteCovers_congr hx hy (frame.i (by simp)) fun a => frame.byte a (by simp)).symm
  obtain ⟨_, _, first⟩ := exec_drw_plotted h
  obtain ⟨_, _, again⟩ := exec_drw_plotted h'
  refine ⟨u, h', first.fb_eq_of_twice (again.congr covers) rfl, ?_, ?_⟩
  · rw [exec_drw_vf_eq_one h']
    refine exists₂_congr fun c r => ?_
    rw [← covers]
    exact and_congr_right fun hc => by simp [first.on c r hc]
  · rw [exec_drw_vf_eq_zero h']
    refine forall₂_congr fun c r => ?_
    rw [← covers]
    exact imp_congr_right fun hc => by simp [first.on c r hc]

/-- Settles O43. -/
theorem clearScreenBlanksEveryPixel : Obligations.ClearScreenBlanksEveryPixel :=
  ⟨decode_encode (i := .cls) rfl, fun s => ⟨_, rfl, FrameBuffer.pixel_blank, s.setFB_frame _⟩⟩

end Sys2Proof.Machine
end

section
/-! Keys (spec/47_keys.md R89 to R92): the key skips are skips on one condition and its negation, Fx0A changes the mode
alone, and the wait step does one of two things. -/

namespace Sys2Proof.Machine

variable {s : State} {key : Option Byte} {rand : Byte} {x : Nibble}

/-- Settles O28: SKP skips on the equality of KEY and Vx, SKNP on its negation. -/
theorem keySkipsFollowTheKey : Obligations.KeySkipsFollowTheKey :=
  ⟨fun x => decode_encode (i := .skp x) rfl, fun x => decode_encode (i := .sknp x) rfl,
    fun _ _ => ⟨exec_skip_pc rfl, exec_skip_not_pc rfl⟩⟩

/-- Settles O47: the instruction is one change of the mode. -/
theorem waitForKeySuspends : Obligations.WaitForKeySuspends :=
  ⟨fun x => decode_encode (i := .ldVxK x) rfl, fun _ s => ⟨_, rfl, rfl, s.setMode_frame _⟩⟩

/-- An execute step of a waiting core with a key present loads it and runs again (R92). -/
theorem step_awaiting_of_key {k : Byte} (hq : s.nextRequest = .execute (some k) rand) (hm : s.mode = .awaitingKey x) :
    step s = .next (((s.sampled (some k) rand).setV x k).setMode .running) :=
  step_awaiting hq hm

/-- An execute step of a waiting core with no key samples the inputs and goes on waiting (R92). -/
theorem step_awaiting_of_none (hq : s.nextRequest = .execute none rand) (hm : s.mode = .awaitingKey x) :
    step s = .next (s.sampled none rand) :=
  step_awaiting hq hm

/-- A tick request outside Halted counts both timers down by 1, floor 0, and changes nothing else (R107). -/
theorem step_tick_counts_down (hq : s.nextRequest = .tick) (hm : ∀ f, s.mode ≠ .halted f) :
    ∃ t, step s = .next t ∧ t.dt.toNat = s.dt.toNat - 1 ∧ t.st.toNat = s.st.toNat - 1 ∧
      SameOutside [.dt, .st] s.takeRequest t := by
  refine ⟨_, step_tick hq, ?_, ?_, s.takeRequest.tickStep_frame⟩ <;>
    rw [State.tickStep_of_not_halted (by simpa using hm)]
  · simp [countDown_toNat]
  · simp [countDown_toNat]

/-- Settles O12, by whether a key is present; a tick changes the timers alone, so it keeps the wait. -/
theorem waitStepTakesAKey : Obligations.WaitStepTakesAKey := by
  refine ⟨fun s key rand x hq hm => ?_, fun s x hq hm => ?_⟩
  · cases key with
    | none => exact ⟨_, step_awaiting_of_none hq hm, nofun, fun _ => rfl⟩
    | some k =>
      refine ⟨_, step_awaiting_of_key hq hm, fun k' hk => ?_, nofun⟩
      cases hk
      exact ⟨State.getV_setV_same _ x k, rfl, (State.setV_frame _ x k).trans (State.setMode_frame _ _)⟩
  · obtain ⟨t, answer, dt, st, frame⟩ := step_tick_counts_down hq (by simp [hm])
    have waits : t.mode = .awaitingKey x := by simpa [hm] using frame.mode (by simp)
    exact ⟨t, answer, waits, dt, st⟩

end Sys2Proof.Machine
end

section
/-! Timers (spec/48_timers.md R93 to R95, spec/60_exceptions.md R107): each transfer is one write, and which steps change
a timer. -/

namespace Sys2Proof.Machine

variable {s t : State}

/-- Settles O48: each instruction is one write of its destination. -/
theorem timerTransfersMoveOneByte : Obligations.TimerTransfersMoveOneByte :=
  ⟨fun x => decode_encode (i := .ldVxDT x) rfl, fun x => decode_encode (i := .ldDTVx x) rfl,
    fun x => decode_encode (i := .ldSTVx x) rfl,
    fun _ s => ⟨exec_setV_frame rfl, ⟨_, rfl, rfl, s.setDT_frame _⟩, ⟨_, rfl, rfl, s.setST_frame _⟩⟩⟩

/-- A fetched word that changes a timer decodes to Fx15 or Fx18 (R22). -/
theorem timer_writer_of_runInstruction (h : runInstruction s = .next t) (hne : t.dt ≠ s.dt ∨ t.st ≠ s.st) :
    ∃ x, decode s.fetchWord = .instr (.ldDTVx x) ∨ decode s.fetchWord = .instr (.ldSTVx x) := by
  rcases runInstruction_cases h with ⟨i, hd, he⟩ | ⟨w, _, rfl⟩
  · rcases hne with hdt | hst
    · obtain ⟨x, rfl⟩ := dt_writer_of_exec he hdt
      exact ⟨x, .inl hd⟩
    · obtain ⟨x, rfl⟩ := st_writer_of_exec he hst
      exact ⟨x, .inr hd⟩
  · simp at hne

/-- Settles O13, by the kind of step. -/
theorem tickCountsBothTimersDown : Obligations.TickCountsBothTimersDown := by
  refine ⟨fun s => step_tick_counts_down, fun s t h hne => ?_⟩
  rcases step_cases h with ⟨key, rand, hq, hm, running⟩ | ⟨_, _, _, _, _, rfl⟩ | ⟨_, _, _, _, _, rfl⟩ |
    ⟨hq, _⟩ | ⟨hq, _⟩ | ⟨_, _, _, _, rfl⟩
  · obtain ⟨x, hx⟩ := timer_writer_of_runInstruction running (by simpa using hne)
    exact .inr (.inr ⟨key, rand, x, hq, hm, by simpa using hx⟩)
  · simp at hne
  · simp at hne
  · exact .inl hq
  · exact .inr (.inl hq)
  · simp at hne

end Sys2Proof.Machine
end

section
/-! BCD and block transfer (spec/49_bcd_block.md R96 to R98): the bytes stored, the registers loaded and the index left,
each with the frame of the instruction's footprint. -/

namespace Sys2Proof.Machine

variable {s t : State} {x : Nibble}

/-- The digit Fx33 stores at an offset, as a number (R96). -/
theorem toNat_memRead_of_exec_ldB (h : exec (.ldB x) s = .next t) {k : Nat} (hk : k < 3) :
    (t.memRead (s.i.toNat + k)).toNat = (s.getV x).toNat / 10 ^ (2 - k) % 10 := by
  rw [memRead_of_exec_ldB h hk, BitVec.toNat_ofNat]
  omega

/-- Settles O50: the digits of weight 100, 10 and 1; a byte is below 1000, so its hundreds are one digit. -/
theorem bcdStoresThreeDigits : Obligations.BcdStoresThreeDigits := by
  refine ⟨fun x => decode_encode (i := .ldB x) rfl, fun x s => ?_⟩
  obtain ⟨t, h⟩ := exec_answers (.ldB x) s
  have hundreds := toNat_memRead_of_exec_ldB h (k := 0) (by decide)
  have tens := toNat_memRead_of_exec_ldB h (k := 1) (by decide)
  have ones := toNat_memRead_of_exec_ldB h (k := 2) (by decide)
  have small := (s.getV x).isLt
  refine ⟨t, h, ?_, by simpa using tens, by simpa using ones, exec_frame h⟩
  rw [Nat.add_zero] at hundreds
  omega

/-- Fx55 leaves every register up to Vx at its own offset (R97). -/
theorem memRead_of_exec_stRegs_reg (h : exec (.stRegs x) s = .next t) {k : Nibble} (hk : k.toNat ≤ x.toNat) :
    t.memRead (s.i.toNat + k.toNat) = s.getV k := by
  rw [memRead_of_exec_stRegs h (by omega), BitVec.ofNat_toNat, BitVec.setWidth_eq]

/-- Fx65 fills the registers up to Vx from their offsets and leaves the others (R98). -/
theorem getV_of_exec_ldRegs (h : exec (.ldRegs x) s = .next t) (k : Nibble) :
    t.getV k = if k.toNat < x.toNat + 1 then s.memRead (s.i.toNat + k.toNat) else s.getV k := by
  cases h
  exact s.getV_loadRegs x.isLt _ k

/-- Settles O51: the block holds the registers, the index is that of a block transfer, and the footprint is the block
with I. -/
theorem storeRegistersWritesTheBlock : Obligations.StoreRegistersWritesTheBlock := by
  refine ⟨fun x => decode_encode (i := .stRegs x) rfl, fun x s => ?_⟩
  refine ⟨_, rfl, fun k => memRead_of_exec_stRegs_reg rfl, s.blockIndex_toNat x, ?_⟩
  exact ((s.storeRegs_frame _ _).trans (State.setI_frame _ _)).mono (by simp +contextual [or_comm])

/-- Settles O52: the registers of the block are loaded, the index is that of a block transfer, and the footprint is the
registers with I. -/
theorem loadRegistersReadsTheBlock : Obligations.LoadRegistersReadsTheBlock := by
  refine ⟨fun x => decode_encode (i := .ldRegs x) rfl, fun x s => ?_⟩
  refine ⟨_, rfl, fun k hk => ?_, fun k hk => ?_, s.blockIndex_toNat x, ?_⟩
  · rw [getV_of_exec_ldRegs rfl, if_pos (by omega)]
  · rw [getV_of_exec_ldRegs rfl, if_neg (by omega)]
  · exact ((s.loadRegs_frame _ _).trans (State.setI_frame _ _)).mono (by simp +contextual [vUpTo, or_comm])

/-- Settles O53: the load reads, at each offset, the byte the store left there. -/
theorem storeThenLoadRoundTrips : Obligations.StoreThenLoadRoundTrips := by
  intro x s t u h hmem hi
  obtain ⟨w, load⟩ := exec_answers (.ldRegs x) u
  refine ⟨w, load, fun k hk => ?_⟩
  calc w.getV k = u.memRead (u.i.toNat + k.toNat) := by rw [getV_of_exec_ldRegs load, if_pos (by omega)]
    _ = t.memRead (s.i.toNat + k.toNat) := by rw [State.memRead, hmem, hi, State.memRead]
    _ = s.getV k := memRead_of_exec_stRegs_reg h hk

end Sys2Proof.Machine
end

section
/-! Fatal conditions and Halted (spec/60_exceptions.md R99 to R102): an execute step halts exactly when a condition of
R99 holds, and a step that halts is the fetch's advance and the raise. -/

namespace Sys2Proof.Machine

variable {s t : State} {i : Instr} {w : Word} {c : FatalCause} {f : FaultRecord} {key : Option Byte}
  {rand : Byte}

/-- The conditions of R99 look at the word, the stack and the parameters alone. -/
theorem fatalWhen_congr (stack : t.stack = s.stack) (cfg : t.cfg = s.cfg) : FatalWhen t w c ↔ FatalWhen s w c := by
  cases c <;> simp only [FatalWhen, State.sp, stack, cfg]

/-- An instruction halts a running core only by raising a condition of R99 that its word meets, and then does nothing
else (R99, R102). -/
theorem raised_of_exec_halted (hw : wellFormed i = true) (hm : s.mode = .running) (h : exec i s = .next t)
    (hf : t.mode = .halted f) : ∃ c, FatalWhen s (encode i) c ∧ t = s.raiseFatal c s.instrAddr (encode i) := by
  rcases exec_mode_cases h with e | ⟨x, _, e⟩ | ⟨nnn, rfl, sysMode, e⟩ | ⟨rfl, empty, e⟩ | ⟨nnn, rfl, full, e⟩
  · rw [e, hm] at hf; cases hf
  · rw [e] at hf; cases hf
  · exact ⟨_, fatalWhen_sys hw sysMode, e⟩
  · exact ⟨.stackUnderflow, ⟨rfl, empty⟩, e⟩
  · exact ⟨.stackOverflow, ⟨opField_formatN _ _, full⟩, e⟩

/-- The state a halting execute step answers: PC past the fetched word, and the record of its address and word (R99,
R102). -/
def State.haltedBy (s : State) (key : Option Byte) (rand : Byte) (c : FatalCause) : State :=
  (s.sampled key rand).advancePC.raiseFatal c s.pc s.fetchWord

theorem State.haltedBy_mode (s : State) (key : Option Byte) (rand : Byte) (c : FatalCause) :
    (s.haltedBy key rand c).mode = .halted { cause := c, pc := s.pc, word := s.fetchWord } := rfl

theorem State.haltedBy_pc (s : State) (key : Option Byte) (rand : Byte) (c : FatalCause) :
    (s.haltedBy key rand c).pc = s.pc + 2#16 := by
  simp [State.haltedBy, State.sampled]

theorem State.haltedBy_frame (s : State) (key : Option Byte) (rand : Byte) (c : FatalCause) :
    SameOutside [.pc, .mode] (s.sampled key rand) (s.haltedBy key rand c) :=
  (State.advancePC_frame _).trans (State.raiseFatal_frame _ _ _ _)

/-- An execute step that halts a running core raises a condition of R99 that the fetched word meets. -/
theorem fatalWhen_of_step_halted (hq : s.nextRequest = .execute key rand) (hm : s.mode = .running)
    (h : step s = .next t) (hf : t.mode = .halted f) :
    ∃ c, FatalWhen s s.fetchWord c ∧ t = s.haltedBy key rand c := by
  cases hd : decode s.fetchWord with
  | unknown w =>
    obtain ⟨rfl, hu⟩ := unknownWord_of_decode hd
    rw [step_of_unknown hq hm hd] at h
    cases h
    exact ⟨.unknownInstruction, hu, rfl⟩
  | instr i =>
    rw [step_of_instr hq hm hd] at h
    obtain ⟨c, hc, e⟩ := raised_of_exec_halted (wellFormed_of_decode hd) (by simpa [State.sampled] using hm) h hf
    rw [encode_of_decode hd] at hc e
    exact ⟨c, (fatalWhen_congr (by simp [State.sampled]) (by simp [State.sampled])).1 hc,
      by simpa [State.haltedBy, State.sampled] using e⟩

/-- An execute step of an instruction that raises a fatal condition past the fetch's advance. -/
theorem step_eq_haltedBy (hq : s.nextRequest = .execute key rand) (hm : s.mode = .running)
    (hd : decode s.fetchWord = .instr i)
    (raised : ∀ u : State, u.stack = s.stack → u.cfg = s.cfg →
      exec i u = .next (u.raiseFatal c u.instrAddr (encode i))) : step s = .next (s.haltedBy key rand c) := by
  rw [step_of_instr hq hm hd, raised _ (by simp [State.sampled]) (by simp [State.sampled]), encode_of_decode hd,
    State.instrAddr_advancePC]
  simp [State.haltedBy, State.sampled]

/-- Where a condition of R99 holds, the execute step raises it. -/
theorem step_of_fatalWhen (hq : s.nextRequest = .execute key rand) (hm : s.mode = .running)
    (hc : FatalWhen s s.fetchWord c) : step s = .next (s.haltedBy key rand c) := by
  cases c with
  | unknownInstruction => exact step_of_unknown hq hm (decode_eq_unknown_iff.2 hc)
  | stackUnderflow =>
    obtain ⟨word, empty⟩ := hc
    exact step_eq_haltedBy hq hm (i := .ret) (by rw [word]; rfl) fun u stack _ => exec_ret_of_empty (stack.trans empty)
  | stackOverflow =>
    obtain ⟨op, full⟩ := hc
    have encoded : encode (.call (nnnField s.fetchWord)) = s.fetchWord := formatN_of_opField op
    have decoded := (decode_of_encode encoded).resolve_right (by simp [opcodeMatch])
    refine step_eq_haltedBy hq hm decoded fun u stack cfg => exec_call_of_full ?_
    rw [cfg, State.sp, stack]
    exact full
  | operandOutOfRange => exact hc.elim
  | sysUnsupported =>
    obtain ⟨op, notCls, notRet, sysMode⟩ := hc
    obtain ⟨_, _, decodesSys, _⟩ := onlyTheSystemRowsOverlap
    exact step_eq_haltedBy hq hm (decodesSys _ op notCls notRet) fun u _ cfg => exec_sys_of_fault (cfg ▸ sysMode)

/-- Settles O9: where a condition holds the step raises it, and a step that halts raises a condition that holds. -/
theorem fatalConditionsAreExactlyTheListed : Obligations.FatalConditionsAreExactlyTheListed := by
  refine ⟨⟨rfl, rfl, rfl, rfl, rfl⟩, fun s key rand hq hm => ?_⟩
  obtain ⟨t, h⟩ : ∃ t, step s = .next t := step_running hq hm ▸ runInstruction_answers _
  refine ⟨t, h, fun c => ⟨fun hf => ?_, fun hc => ?_⟩, fun f hf => ?_⟩
  · obtain ⟨c', hc, rfl⟩ := fatalWhen_of_step_halted hq hm h hf
    cases hf
    exact hc
  · cases h.symm.trans (step_of_fatalWhen hq hm hc)
    exact s.haltedBy_mode key rand c
  · obtain ⟨c, _, rfl⟩ := fatalWhen_of_step_halted hq hm h hf
    cases hf
    exact ⟨rfl, rfl⟩

/-- Settles O10: a step that halts is the fetch's advance and the raise. -/
theorem fatalConditionsArePrecise : Obligations.FatalConditionsArePrecise := by
  intro s t key rand f hq hm h hf
  obtain ⟨c, _, rfl⟩ := fatalWhen_of_step_halted hq hm h hf
  exact ⟨s.haltedBy_pc key rand c, s.haltedBy_frame key rand c⟩

/-- A tick request in Halted changes nothing (R101). -/
theorem step_tick_halted (hq : s.nextRequest = .tick) (hm : s.mode = .halted f) : step s = .next s.takeRequest := by
  rw [step_tick hq, State.tickStep_of_halted (f := f) (by simpa using hm)]

/-- Settles O11, by the request; only a loader write before the first execute step has an effect. -/
theorem haltedIsAbsorbing : Obligations.HaltedIsAbsorbing := by
  refine fun s f hm => ⟨fun key rand hq => step_halted hq hm, fun hq => step_tick_halted hq hm, fun t h noReset => ?_⟩
  have kept : s.takeRequest.mode = .halted f := by simpa using hm
  cases hq : s.nextRequest with
  | execute key rand =>
    cases h.symm.trans (step_halted hq hm)
    exact ⟨kept, fun _ => rfl⟩
  | tick =>
    cases h.symm.trans (step_tick_halted hq hm)
    exact ⟨kept, fun _ => rfl⟩
  | reset => exact absurd hq noReset
  | load a d =>
    cases ho : s.loadOpen with
    | true =>
      cases h.symm.trans (step_load_open hq ho)
      exact ⟨kept, nofun⟩
    | false => cases h.symm.trans (step_load_closed hq ho)

end Sys2Proof.Machine
end

section
/-! The ports (spec/60_exceptions.md R114, R115): the loader window and the outputs. -/

namespace Sys2Proof.Machine

variable {s t : State}

/-- An execute step outside Halted closes the loader window (R41, R114). -/
theorem loadOpen_of_execute {key : Option Byte} {rand : Byte} (hq : s.nextRequest = .execute key rand)
    (hm : ∀ f, s.mode ≠ .halted f) : ∃ t, step s = .next t ∧ t.loadOpen = false := by
  cases hmode : s.mode with
  | running =>
    rw [step_running hq hmode]
    obtain ⟨t, h⟩ := runInstruction_answers (s.takeRequest.sample key rand)
    refine ⟨t, h, ?_⟩
    rcases runInstruction_cases h with ⟨i, _, he⟩ | ⟨w, _, rfl⟩
    · exact (exec_frame he).loadOpen
    · rfl
  | awaitingKey x => exact ⟨_, step_awaiting hq hmode, State.waitStep_loadOpen _ x⟩
  | halted f => exact absurd hmode (hm f)

/-- A 12-bit address is in the address space as it stands (R28). -/
theorem memAddr_addr (a : Addr) : memAddr a.toNat = a.toNat := Nat.mod_eq_of_lt a.isLt

/-- Settles O17, by the window before the request. -/
theorem loaderWritesOnlyBeforeTheFirstStep : Obligations.LoaderWritesOnlyBeforeTheFirstStep := by
  refine ⟨fun s a d hq ho => ⟨_, step_load_open hq ho, State.memRead_memWrite_same _ _ d, ?_⟩,
    fun s key rand => loadOpen_of_execute, fun s a d => step_load_closed⟩
  simpa only [memAddr_addr] using s.takeRequest.memWrite_frame a.toNat d

/-- Settles O60: each port is a field of the state, or a function of one that `spPort_toNat` and the mode decide. -/
theorem outputsShowTheState : Obligations.OutputsShowTheState := by
  refine fun s => ⟨rfl, rfl, fun _ => rfl, rfl, rfl, spPort_toNat, fun _ _ => rfl, fun notHalted => ?_,
    fun hm => ?_, fun x hm => ?_, fun f hm => ?_⟩
  · simp [State.outputs, faultOut_of_not_halted notHalted]
  · simp [State.outputs, hm, modeOut]
  · simp [State.outputs, hm, modeOut]
  · simp [State.outputs, hm, modeOut, faultOut]

end Sys2Proof.Machine
end

section
/-! Reset and the boot writes (spec/70_reset_and_hazards.md R120, R121): the values after a reset, and a run of loader
writes by induction on the bytes written. -/

namespace Sys2Proof.Machine

variable {s t : State}

theorem getV_of_v_reset (h : s.v = State.reset.v) (x : Nibble) : s.getV x = 0#8 := by
  simp [State.getV, h, State.reset]

theorem memRead_of_mem_reset (h : s.mem = State.reset.mem) (a : Nat) : s.memRead a = 0#8 := by
  simp only [State.memRead, h]
  rfl

/-- Settles O16. -/
theorem resetLeavesTheStatedValues : Obligations.ResetLeavesTheStatedValues :=
  ⟨getV_of_v_reset rfl, rfl, rfl, rfl, rfl, rfl, rfl, FrameBuffer.pixel_blank, rfl, memRead_of_mem_reset rfl, rfl⟩

/-- Settles O15: what a reset keeps is the configuration, whose `LOAD_ADDR` gives PC, and the host's side. -/
theorem resetRequestRestoresEverything : Obligations.ResetRequestRestoresEverything := by
  refine fun s hq => ⟨_, step_reset hq, getV_of_v_reset rfl, rfl, ?_, rfl, rfl, rfl, rfl, FrameBuffer.pixel_blank, rfl,
    memRead_of_mem_reset rfl, rfl⟩
  rw [State.resetCore_pc, State.takeRequest_cfg]

/-- Settles O59: a reset of the machine right after reset is that machine. -/
theorem resetMeetsTheInvariant : Obligations.ResetMeetsTheInvariant := State.reset.resetCore_inv

/-- A run of `m + n` steps goes on for `n` from the state the first `m` answer. -/
theorem run_add {m : Nat} (n : Nat) (h : Host.Core.run Sys2Proof.core m s = .next t) :
    Host.Core.run Sys2Proof.core (m + n) s = Host.Core.run Sys2Proof.core n t := by
  induction m generalizing s with
  | zero => cases h; rw [Nat.zero_add]
  | succ m ih =>
    cases hs : step s with
    | next u =>
      rw [run_succ m hs] at h
      rw [Nat.add_right_comm, run_succ _ hs, ih h]
    | fault r => cases r
    | refused r =>
      have hc : Sys2Proof.core.step s = .refused r := hs
      simp only [Host.Core.run, hc] at h
      cases h

@[simp] theorem length_loadScript (base : Nat) (bytes : List Byte) : (loadScript base bytes).length = bytes.length := by
  induction bytes generalizing base with
  | nil => rfl
  | cons b bytes ih => simp [loadScript, ih]

/-- The bytes from an address on, `count` of them, as parts of the state. -/
def bytesFrom (base count : Nat) : List Part := (List.range count).map fun k => .byte (memAddr (base + k))

theorem byte_mem_bytesFrom {base count a : Nat} :
    .byte (memAddr a) ∈ bytesFrom base count ↔ ∃ k, k < count ∧ memAddr (base + k) = memAddr a := by
  simp [bytesFrom]

theorem bytesFrom_succ (base count : Nat) :
    bytesFrom base (count + 1) = .byte (memAddr base) :: bytesFrom (base + 1) count := by
  simp [bytesFrom, List.range_succ_eq_map, Nat.add_assoc, Nat.add_comm 1]

/-- A block that ends inside the address space is at its addresses as they stand. -/
theorem bytesFrom_of_fits {base count : Nat} (h : base + count ≤ 4096) :
    bytesFrom base count = (List.range count).map fun k => .byte (base + k) := by
  refine List.map_congr_left fun k hk => ?_
  have hk := List.mem_range.1 hk
  rw [memAddr_eq, Nat.mod_eq_of_lt (by omega)]

/-- Addresses that agree mod 4096 are written as one (R28). -/
theorem State.memWrite_congr {a b : Nat} (h : memAddr a = memAddr b) (v : Byte) : s.memWrite a v = s.memWrite b v := by
  rw [State.memWrite, State.memWrite, h]

/-- A loader write at the head of the script, while the window is open (R114). -/
theorem step_load_of_script {base : Nat} {b : Byte} {rest : List HostRequest} (ho : s.loadOpen = true)
    (hs : s.script = .load (BitVec.ofNat 12 base) b :: rest) :
    step s = .next ({ s with script := rest }.memWrite base b) := by
  have addr : memAddr (BitVec.ofNat 12 base).toNat = memAddr base := memAddr_memAddr base
  rw [step_load_open (State.nextRequest_of_script hs) ho, State.takeRequest_of_script hs, State.memWrite_congr addr]

/-- What a change spares stays the same under any script of requests still to come. -/
theorem SameOutside.withScript {parts : List Part} (h : SameOutside parts s t) (rest : List HostRequest) :
    SameOutside parts { s with script := rest } { t with script := rest } :=
  { h with script := rfl }

/-- Loader writes of consecutive bytes, no more than memory holds, leave each at its address and change nothing else. -/
theorem run_loadScript {base : Nat} {bytes : List Byte} {rest : List HostRequest} (fits : bytes.length ≤ 4096)
    (ho : s.loadOpen = true) (hs : s.script = loadScript base bytes ++ rest) :
    ∃ t : State, Host.Core.run Sys2Proof.core bytes.length s = .next t ∧
      (∀ (k : Nat) (h : k < bytes.length), t.memRead (base + k) = bytes[k]) ∧
      SameOutside (bytesFrom base bytes.length) { s with script := rest } t := by
  induction bytes generalizing s base with
  | nil =>
    cases hs
    exact ⟨s, rfl, nofun, SameOutside.rfl' _ s⟩
  | cons b bytes ih =>
    rw [List.length_cons] at fits
    have first := step_load_of_script ho hs
    obtain ⟨t, hrun, written, frame⟩ := ih (s := { s with script := _ }.memWrite base b) (by omega) ho rfl
    have apart : Part.byte (memAddr base) ∉ bytesFrom (base + 1) bytes.length := by
      rw [byte_mem_bytesFrom]
      rintro ⟨k, hk, meet⟩
      rw [memAddr_eq, memAddr_eq] at meet
      omega
    refine ⟨t, (run_succ _ first).trans hrun, fun k hk => ?_, ?_⟩
    · cases k with
      | zero => exact (frame.byte base apart).trans (State.memRead_memWrite_same _ _ _)
      | succ k =>
        have shifted : base + (k + 1) = base + 1 + k := by omega
        exact (congrArg t.memRead shifted).trans (written k (Nat.lt_of_succ_lt_succ hk))
    · rw [List.length_cons, bytesFrom_succ]
      exact (State.memWrite_frame { s with script := rest } base b).trans frame

/-- Settles O18: the font's writes and then the program's, each leaving its bytes; the font's stay where the program's
block does not lie over them. -/
theorem bootLoadsFontAndProgram : Obligations.BootLoadsFontAndProgram := by
  intro s program rest ho fits hs
  have fontLength : s.cfg.fontData.toList.length = 80 := Vector.length_toList
  obtain ⟨u, fontRun, font, fontFrame⟩ := run_loadScript (by omega) ho (hs.trans (List.append_assoc _ _ _))
  obtain ⟨t, programRun, written, programFrame⟩ := run_loadScript (by omega) (fontFrame.loadOpen.trans ho)
    fontFrame.script
  have bootLength : (bootScript s.cfg program).length = s.cfg.fontData.toList.length + program.length := by
    simp [bootScript, fontScript, programScript]
  rw [fontLength] at fontFrame
  rw [bytesFrom_of_fits fits] at programFrame
  refine ⟨t, ?_, written, fun k hk apart => ?_, (fontFrame.withScript rest).trans programFrame⟩
  · rw [bootLength, run_add _ fontRun, programRun]
  · have untouched : t.memRead (s.cfg.fontBase.toNat + k) = u.memRead (s.cfg.fontBase.toNat + k) :=
      programFrame.byte _ (by simpa using apart)
    rw [untouched, font k (hk.trans_eq fontLength.symm), Vector.getElem_toList]

end Sys2Proof.Machine
end

section
/-! The self-jump (spec/70_reset_and_hazards.md R124, spec/40_control.md R59): its execute step samples the inputs and
changes nothing else, so a run stays at it, by induction on the run. -/

namespace Sys2Proof.Machine

variable {s t : State} {key : Option Byte} {rand : Byte}

/-- The self-jump depends on the mode, PC and memory alone. -/
theorem State.selfJump.of_same (h : s.selfJump) (mode : t.mode = s.mode) (pc : t.pc = s.pc) (mem : t.mem = s.mem) :
    t.selfJump := by
  obtain ⟨hm, nnn, hd, target⟩ := h
  exact ⟨mode.trans hm, nnn, by rwa [State.fetchWord_congr mem pc], target.trans pc.symm⟩

theorem exec_jp (nnn : Addr) (s : State) : exec (.jp nnn) s = .next (s.setPC (zextAddr nnn)) := rfl

/-- A jump to its own address takes back the fetch's advance (R54, R59). -/
theorem runInstruction_of_selfJump (h : s.selfJump) : runInstruction s = .next s := by
  obtain ⟨_, nnn, hd, target⟩ := h
  rw [runInstruction_instr hd, exec_jp, zextAddr, target]
  rfl

theorem State.selfJump.sample (h : s.selfJump) : (s.sample key rand).selfJump := h

theorem State.selfJump.takeRequest (h : s.selfJump) : s.takeRequest.selfJump := h.of_same (by simp) (by simp) (by simp)

/-- What a change spares stays the same when both states sample the same inputs. -/
theorem SameOutside.sample {parts : List Part} (h : SameOutside parts s t) (key : Option Byte) (rand : Byte) :
    SameOutside parts (s.sample key rand) (t.sample key rand) :=
  { h with loadOpen := rfl, key := rfl, rand := rfl }

/-- One step of a run from a self-jump samples the inputs or ticks. -/
theorem IsRun.step_of_selfJump {host : Nat → HostRequest} {r : Nat → State} {n : Nat} (hr : IsRun host r)
    (h : (r n).selfJump) : (∃ key rand, r (n + 1) = (r n).sample key rand) ∨ r (n + 1) = (r n).tickStep := by
  have hm : (r n).mode = .running := h.1
  rcases hr.step_cases n with ⟨key, rand, _, _, running⟩ | ⟨_, _, _, _, waiting, _⟩ | ⟨_, _, _, _, halted, _⟩ |
    ⟨_, ticked⟩
  · rw [runInstruction_of_selfJump h.sample] at running
    exact .inl ⟨key, rand, (Host.Outcome.next.inj running).symm⟩
  · cases hm.symm.trans waiting
  · cases hm.symm.trans halted
  · exact .inr ticked

/-- Settles O20, the second part by induction on the run. -/
theorem selfJumpRepeatsItself : Obligations.SelfJumpRepeatsItself := by
  refine ⟨fun s key rand hq h => ?_, fun host r n m hr hnm h => ?_⟩
  · have sampled : (s.sampled key rand).selfJump := h.takeRequest.sample
    exact ⟨_, (step_running hq h.1).trans (runInstruction_of_selfJump sampled), SameOutside.rfl' _ _, sampled⟩
  · induction m, hnm using Nat.le_induction with
    | base => exact ⟨h, (r n).key, (r n).rand, (r n).loadOpen, SameOutside.rfl' _ _⟩
    | succ m _ ih =>
      obtain ⟨stays, key, rand, isOpen, frame⟩ := ih
      rcases hr.step_of_selfJump stays with ⟨key', rand', e⟩ | e
      · rw [e]
        exact ⟨stays.sample, key', rand', false, frame.sample key' rand'⟩
      · rw [e]
        exact ⟨stays.of_same (by simp) (by simp) (by simp), key, rand, isOpen, frame.comp (State.tickStep_frame _)⟩

end Sys2Proof.Machine
end
